-- ==== Sys2Proof/Word.lean ====
section
/-! DEFINITION. The bit vectors of the model: what the manual treats as bits. Counts, airtimes and
indices are `Nat`, balances are `Int`. -/

namespace Sys2Proof

/-- One byte on a link (R176). -/
abbrev Byte := BitVec 8

/-- A 16-bit field: an association number on the wire, a check sequence, an actual airtime. -/
abbrev Half := BitVec 16

/-- A 32-bit field: a handle, a millisecond timestamp, the free-running microsecond count, an
airtime total (00_scope "Units and the time base", R1). -/
abbrev Word := BitVec 32

end Sys2Proof
end

