-- ==== Sys2Proof/Syntax.lean ====
section
/-! DEFINITION. The commands the part takes: one constructor of `Instr` for each row of
spec/opcode_table.json, and the records they carry. A request command carries no operand of its own:
its operands are the body of the record at the head of the inbound request queue (R179), whose fields
are the `…Req` structures below. -/

namespace Sys2Proof

/-- The two radio ports (00_scope "Numbering of things"). -/
inductive PortNo
  | zero
  | one
  deriving DecidableEq, Repr

/-- The three serial links. -/
inductive Link
  | control
  | radio (p : PortNo)
  deriving DecidableEq, Repr

/-- The two traffic tiers of a station. -/
inductive Tier
  | expedited
  | standard
  deriving DecidableEq, Repr

/-- A whole frame after its sync byte (R176). The length field is the number of body bytes. -/
structure Frame where
  type  : Byte
  tag   : Byte
  body  : List Byte
  check : Half
  deriving DecidableEq, Repr

/-- Why a receiver discards a frame (R177): its length field is above 1024, seen before any body
byte, or the whole frame came and its check sequence does not match. -/
inductive Damage
  | tooLong (len : Half)
  | badCheck (f : Frame)
  deriving DecidableEq, Repr

/-- A received record: a frame whose check sequence matched, less framing (R178). -/
structure Record where
  type : Byte
  tag  : Byte
  body : List Byte
  deriving DecidableEq, Repr

/-- An OUTCOME record (section 10.5). The demand is `none` when flag bit 0 is clear. -/
structure OutcomeRecord where
  number   : Byte
  actual   : Half
  rateCode : Byte
  demand   : Option (BitVec 24)
  results  : List Byte
  deriving DecidableEq, Repr

/-- One entry of a UL_OUTCOME record (section 10.5). -/
structure UlEntry where
  assoc  : Half
  actual : Half
  bytes  : BitVec 24
  demand : Option (BitVec 24)
  deriving DecidableEq, Repr

/-- A UL_OUTCOME record (R101). -/
structure UlOutcomeRecord where
  number  : Byte
  entries : List UlEntry
  deriving DecidableEq, Repr

/-- One rate-table entry (section 3.2). -/
structure RateEntry where
  rate          : Nat
  grantOverhead : Nat
  frameOverhead : Nat
  enabled       : Bool
  deriving DecidableEq, Repr

/-- The thirteen parameters of a port, in the order of R111. -/
structure PortParams where
  dlQuantum      : Nat
  ulQuantum      : Nat
  airtimeCap     : Nat
  aggLimit       : Nat
  trim           : Int
  epochLength    : Nat
  expShare       : Nat
  ulRatio        : Nat
  windowLength   : Nat
  ulMax          : Nat
  grantTimeout   : Nat
  holdLimit      : Nat
  serviceTimeout : Nat
  deriving DecidableEq, Repr

/-- The five Retry Monitor settings, in the order of R173. -/
structure MonitorSettings where
  window   : Nat
  degrade  : Nat
  recover  : Nat
  aggLimit : Nat
  percent  : Nat
  deriving DecidableEq, Repr

/-- The three values of SET_LIFETIMES (R34). -/
structure Lifetimes where
  expedited  : Nat
  standard   : Nat
  coalescing : Nat
  deriving DecidableEq, Repr

/-- CONFIGURE_PORT as sent (R111). -/
structure ConfigureReq where
  port   : Nat
  params : PortParams
  deriving DecidableEq, Repr

/-- LOAD_RATES as sent (R46). -/
structure LoadRatesReq where
  port    : Nat
  first   : Nat
  entries : List RateEntry
  deriving DecidableEq, Repr

/-- ADMIT as sent (section 1.4). -/
structure AdmitReq where
  station    : Nat
  port       : Nat
  assoc      : Nat
  cls        : Nat
  rateMode   : Nat
  rateCode   : Nat
  queueCap   : Nat
  frameLimit : Nat
  deriving DecidableEq, Repr

/-- UPDATE as sent (R8): the four low bits of the change mask, then the four values. -/
structure UpdateReq where
  station       : Nat
  setClass      : Bool
  setRateMode   : Bool
  setQueueCap   : Bool
  setFrameLimit : Bool
  cls           : Nat
  rateMode      : Nat
  queueCap      : Nat
  frameLimit    : Nat
  deriving DecidableEq, Repr

/-- One descriptor entry of ENQUEUE (section 2.4). -/
structure Descriptor where
  handle : Word
  length : Nat
  tier   : Tier
  solo   : Bool
  deriving DecidableEq, Repr

/-- ENQUEUE as sent (R26). -/
structure EnqueueReq where
  station : Nat
  entries : List Descriptor
  deriving DecidableEq, Repr

/-- The tier selector of FLUSH (section 2.6). -/
inductive Selector
  | expedited
  | standard
  | both
  deriving DecidableEq, Repr

/-- FLUSH as sent (R32). -/
structure FlushReq where
  station  : Nat
  selector : Selector
  deriving DecidableEq, Repr

/-- The part's commands, in the order of spec/opcode_table.json. -/
inductive Instr
  | resetN
  | initializationComplete
  | controlFrameReceived (f : Frame)
  | frameDiscarded (l : Link) (d : Damage)
  | csNRaisedMidFrame
  | badType
  | replySent
  | noticeSent
  | configurePort
  | loadRates
  | setWeights
  | setMonitor
  | setLifetimes
  | startPort
  | stopPort
  | admitStation
  | update
  | depart
  | queryStation
  | enqueue
  | flush
  | status
  | resetPart
  | resetPartTakesEffect
  | hello (p : PortNo) (depth : Byte)
  | outcome (p : PortNo) (o : OutcomeRecord)
  | ulOutcome (p : PortNo) (o : UlOutcomeRecord)
  | demand (p : PortNo) (assoc : Half) (bytes : Word)
  | psEventDoze (p : PortNo) (assoc : Half)
  | psEventWake (p : PortNo) (assoc : Half)
  | psEventTrigger (p : PortNo) (assoc : Half)
  | psEventDiscarded (p : PortNo) (assoc : Half) (kind : Byte)
  | hold (p : PortNo) (reason : Byte)
  | resume (p : PortNo)
  | radioRecordDiscarded (p : PortNo) (type : Byte) (body : List Byte)
  | grantTimeout (p : PortNo) (number : Byte)
  | epochExpiry (p : PortNo)
  | resumeTimerExpiry (p : PortNo)
  | holdTimerExpiry (p : PortNo)
  | serviceDeadline (station : Nat)
  | coalescingTimerExpiry
  | huntByteSkipped (l : Link) (b : Byte)
  deriving DecidableEq, Repr

end Sys2Proof
end

