-- ==== Sys2Proof/Decode.lean ====
section
/-! DEFINITION. The wire side of the part: byte order, the check sequence (R176), the request bodies
and the radio records of section 10.5, each read by a total function that answers `none` where R178
or the request's owner finds the body length (or a selector) wrong, and each written by an encoder
from the same layouts. `decodeTableWord` is the host's question about rows with bits: the table of
this part gives no row any. -/

namespace Sys2Proof

/-- No row of spec/opcode_table.json has bits, so no word spells a command. -/
def decodeTableWord (_nbits _w : Nat) : Option Instr := none

/-! ### Byte order (R176) -/

/-- The number whose bytes, least significant first, are the arguments. -/
def le2 (a b : Byte) : Nat := a.toNat + 256 * b.toNat
def le3 (a b c : Byte) : Nat := a.toNat + 256 * b.toNat + 65536 * c.toNat
def le4 (a b c d : Byte) : Nat := a.toNat + 256 * b.toNat + 65536 * c.toNat + 16777216 * d.toNat

/-- The low `k` bytes of `n`, least significant first. -/
def toLe : Nat → Nat → List Byte
  | 0, _ => []
  | k + 1, n => BitVec.ofNat 8 n :: toLe k (n / 256)

/-- A byte holding a flag in bit 0. -/
def boolByte (b : Bool) : Byte := if b then 1 else 0

/-! ### The check sequence (R176) -/

/-- One bit into the CRC register: generator x^16 + x^12 + x^5 + 1. -/
def crcBit (r : Half) (b : Bool) : Half :=
  if (r.msb ^^ b) then (r <<< 1) ^^^ 0x1021#16 else r <<< 1

/-- One byte into the register, most significant bit first. -/
def crcByte (r : Half) (b : Byte) : Half :=
  [b.getLsbD 7, b.getLsbD 6, b.getLsbD 5, b.getLsbD 4, b.getLsbD 3, b.getLsbD 2, b.getLsbD 1,
    b.getLsbD 0].foldl crcBit r

/-- The register starts at all ones and is not inverted at the end. -/
def crc (bs : List Byte) : Half := bs.foldl crcByte 0xFFFF#16

/-- The bytes the check sequence covers: type, both length bytes, tag, body. -/
def coveredBytes (type tag : Byte) (body : List Byte) : List Byte :=
  type :: toLe 2 body.length ++ tag :: body

/-- The check sequence a record should carry. -/
def checkOf (type tag : Byte) (body : List Byte) : Half := crc (coveredBytes type tag body)

/-- The whole frame of a record, from its sync byte on. -/
def frameBytes (r : Record) : List Byte :=
  0xA5#8 :: coveredBytes r.type r.tag r.body ++ toLe 2 (checkOf r.type r.tag r.body).toNat

/-- A frame is taken by its receiver when its length is at most 1024 and its check matches (R177). -/
def Frame.intact (f : Frame) : Bool :=
  decide (f.body.length ≤ 1024) && f.check == checkOf f.type f.tag f.body

/-- The damage R177 names is really there. -/
def Damage.real : Damage → Bool
  | .tooLong len => decide (1024 < len.toNat)
  | .badCheck f => !f.intact

/-- The bytes a receiver collects of a frame, its sync byte among them: the whole frame, or with a length
above 1024 no more than its length bytes (R176, R177). -/
def Frame.bytesIn (f : Frame) : Nat := if f.body.length ≤ 1024 then f.body.length + 7 else 4

/-- The bytes collected of a frame that is discarded. -/
def Damage.bytesIn : Damage → Nat
  | .tooLong _ => 4
  | .badCheck f => f.bytesIn

/-- The frame that carries a record, with the right check sequence. -/
def Record.frame (r : Record) : Frame := ⟨r.type, r.tag, r.body, checkOf r.type r.tag r.body⟩

/-! ### Type bytes (section 10.5) -/

/-- The types of the fifteen requests. -/
def requestTypes : List Byte :=
  [0x01, 0x02, 0x03, 0x04, 0x05, 0x06, 0x07, 0x10, 0x11, 0x12, 0x13, 0x20, 0x21, 0x30, 0x31]

/-! ### Request bodies -/

/-- CONFIGURE_PORT: 20 bytes. -/
def parseConfigure : List Byte → Option ConfigureReq
  | [p, d0, d1, u0, u1, c0, c1, ag, tr, e0, e1, sh, k, w0, w1, mx, gt, h0, h1, st] =>
    some ⟨p.toNat,
      { dlQuantum := le2 d0 d1, ulQuantum := le2 u0 u1, airtimeCap := le2 c0 c1,
        aggLimit := ag.toNat, trim := tr.toInt, epochLength := le2 e0 e1, expShare := sh.toNat,
        ulRatio := k.toNat, windowLength := le2 w0 w1, ulMax := mx.toNat,
        grantTimeout := gt.toNat, holdLimit := le2 h0 h1, serviceTimeout := st.toNat }⟩
  | _ => none

/-- The thirteen parameters as CONFIGURE_PORT, its reply and STATUS lay them out: 19 bytes. -/
def encodeParams (q : PortParams) : List Byte :=
  toLe 2 q.dlQuantum ++ toLe 2 q.ulQuantum ++ toLe 2 q.airtimeCap ++ toLe 1 q.aggLimit ++
    [BitVec.ofInt 8 q.trim] ++ toLe 2 q.epochLength ++ toLe 1 q.expShare ++ toLe 1 q.ulRatio ++
    toLe 2 q.windowLength ++ toLe 1 q.ulMax ++ toLe 1 q.grantTimeout ++ toLe 2 q.holdLimit ++
    toLe 1 q.serviceTimeout

def encodeConfigure (r : ConfigureReq) : List Byte := toLe 1 r.port ++ encodeParams r.params

/-- `n` rate entries of 7 bytes, with nothing after them. -/
def parseRateEntries : Nat → List Byte → Option (List RateEntry)
  | 0, [] => some []
  | 0, _ :: _ => none
  | n + 1, r0 :: r1 :: g0 :: g1 :: f0 :: f1 :: en :: rest =>
    (parseRateEntries n rest).map (⟨le2 r0 r1, le2 g0 g1, le2 f0 f1, en != 0⟩ :: ·)
  | _ + 1, _ => none

/-- LOAD_RATES: the count, 1 to 31, fixes the body length (R46 check 1). -/
def parseLoadRates : List Byte → Option LoadRatesReq
  | p :: c :: n :: rest =>
    if n.toNat = 0 ∨ 31 < n.toNat then none
    else (parseRateEntries n.toNat rest).map (⟨p.toNat, c.toNat, ·⟩)
  | _ => none

def encodeRateEntry (e : RateEntry) : List Byte :=
  toLe 2 e.rate ++ toLe 2 e.grantOverhead ++ toLe 2 e.frameOverhead ++ [boolByte e.enabled]

def encodeLoadRates (r : LoadRatesReq) : List Byte :=
  toLe 1 r.port ++ toLe 1 r.first ++ toLe 1 r.entries.length ++ r.entries.flatMap encodeRateEntry

/-- SET_WEIGHTS: 8 bytes. -/
def parseWeights (b : List Byte) : Option (List Nat) :=
  if b.length = 8 then some (b.map BitVec.toNat) else none

def encodeWeights (ws : List Nat) : List Byte := ws.flatMap (toLe 1)

/-- SET_MONITOR: 8 bytes. -/
def parseMonitor : List Byte → Option MonitorSettings
  | [m0, m1, f0, f1, r0, r1, l, pc] => some ⟨le2 m0 m1, le2 f0 f1, le2 r0 r1, l.toNat, pc.toNat⟩
  | _ => none

def encodeMonitor (m : MonitorSettings) : List Byte :=
  toLe 2 m.window ++ toLe 2 m.degrade ++ toLe 2 m.recover ++ toLe 1 m.aggLimit ++ toLe 1 m.percent

/-- SET_LIFETIMES: 6 bytes. -/
def parseLifetimes : List Byte → Option Lifetimes
  | [e0, e1, s0, s1, c0, c1] => some ⟨le2 e0 e1, le2 s0 s1, le2 c0 c1⟩
  | _ => none

def encodeLifetimes (l : Lifetimes) : List Byte :=
  toLe 2 l.expedited ++ toLe 2 l.standard ++ toLe 2 l.coalescing

/-- START_PORT and STOP_PORT: one byte. -/
def parsePort : List Byte → Option Nat
  | [p] => some p.toNat
  | _ => none

/-- ADMIT: 11 bytes. -/
def parseAdmit : List Byte → Option AdmitReq
  | [s0, s1, p, a0, a1, c, rm, rc, q0, q1, fl] =>
    some ⟨le2 s0 s1, p.toNat, le2 a0 a1, c.toNat, rm.toNat, rc.toNat, le2 q0 q1, fl.toNat⟩
  | _ => none

def encodeAdmit (r : AdmitReq) : List Byte :=
  toLe 2 r.station ++ toLe 1 r.port ++ toLe 2 r.assoc ++ toLe 1 r.cls ++ toLe 1 r.rateMode ++
    toLe 1 r.rateCode ++ toLe 2 r.queueCap ++ toLe 1 r.frameLimit

/-- UPDATE: 8 bytes; mask bits above bit 3 are ignored. -/
def parseUpdate : List Byte → Option UpdateReq
  | [s0, s1, m, c, rm, q0, q1, fl] =>
    some ⟨le2 s0 s1, m.getLsbD 0, m.getLsbD 1, m.getLsbD 2, m.getLsbD 3, c.toNat, rm.toNat,
      le2 q0 q1, fl.toNat⟩
  | _ => none

def encodeUpdate (r : UpdateReq) : List Byte :=
  toLe 2 r.station ++
    [boolByte r.setClass ||| boolByte r.setRateMode <<< 1 ||| boolByte r.setQueueCap <<< 2 |||
      boolByte r.setFrameLimit <<< 3] ++
    toLe 1 r.cls ++ toLe 1 r.rateMode ++ toLe 2 r.queueCap ++ toLe 1 r.frameLimit

/-- DEPART and QUERY_STATION: two bytes. -/
def parseStation : List Byte → Option Nat
  | [s0, s1] => some (le2 s0 s1)
  | _ => none

/-- The tier a code names: 0 EXPEDITED, 1 STANDARD. -/
def tierByte : Tier → Byte
  | .expedited => 0
  | .standard => 1

/-- `n` descriptor entries of 7 bytes, with nothing after them; flag bits above bit 1 ignored. -/
def parseDescriptors : Nat → List Byte → Option (List Descriptor)
  | 0, [] => some []
  | 0, _ :: _ => none
  | n + 1, h0 :: h1 :: h2 :: h3 :: l0 :: l1 :: fl :: rest =>
    (parseDescriptors n rest).map
      (⟨BitVec.ofNat 32 (le4 h0 h1 h2 h3), le2 l0 l1,
        if fl.getLsbD 0 then .standard else .expedited, fl.getLsbD 1⟩ :: ·)
  | _ + 1, _ => none

/-- ENQUEUE: the count, 1 to 16, fixes the body length (R26 check 1). -/
def parseEnqueue : List Byte → Option EnqueueReq
  | s0 :: s1 :: n :: rest =>
    if n.toNat = 0 ∨ 16 < n.toNat then none
    else (parseDescriptors n.toNat rest).map (⟨le2 s0 s1, ·⟩)
  | _ => none

def encodeDescriptor (d : Descriptor) : List Byte :=
  toLe 4 d.handle.toNat ++ toLe 2 d.length ++ [tierByte d.tier ||| boolByte d.solo <<< 1]

def encodeEnqueue (r : EnqueueReq) : List Byte :=
  toLe 2 r.station ++ toLe 1 r.entries.length ++ r.entries.flatMap encodeDescriptor

/-- FLUSH: 3 bytes, selector 0 to 2 (R32 check 1). -/
def parseFlush : List Byte → Option FlushReq
  | [s0, s1, t] =>
    if t = 0 then some ⟨le2 s0 s1, .expedited⟩
    else if t = 1 then some ⟨le2 s0 s1, .standard⟩
    else if t = 2 then some ⟨le2 s0 s1, .both⟩
    else none
  | _ => none

def selectorByte : Selector → Byte
  | .expedited => 0
  | .standard => 1
  | .both => 2

def encodeFlush (r : FlushReq) : List Byte := toLe 2 r.station ++ [selectorByte r.selector]

/-! ### Records from a radio (section 10.5, R120, R178) -/

/-- `n` UL_OUTCOME entries of 11 bytes, with nothing after them. Section 10.5 names bit 0 of an entry's flags
alone; that bits 1 to 7 are ignored is the model's choice (DESIGN CHOICE, unsafe: assumption 31). -/
def parseUlEntries : Nat → List Byte → Option (List UlEntry)
  | 0, [] => some []
  | 0, _ :: _ => none
  | n + 1, a0 :: a1 :: t0 :: t1 :: b0 :: b1 :: b2 :: fl :: d0 :: d1 :: d2 :: rest =>
    (parseUlEntries n rest).map
      (⟨BitVec.ofNat 16 (le2 a0 a1), BitVec.ofNat 16 (le2 t0 t1), BitVec.ofNat 24 (le3 b0 b1 b2),
        if fl.getLsbD 0 then some (BitVec.ofNat 24 (le3 d0 d1 d2)) else none⟩ :: ·)
  | _ + 1, _ => none

/-- The command a PS_EVENT of this kind is; a kind above 2 is one R153 discards. -/
def psCommand (p : PortNo) (a : Half) (kind : Byte) : Instr :=
  if kind = 0 then .psEventDoze p a
  else if kind = 1 then .psEventWake p a
  else if kind = 2 then .psEventTrigger p a
  else .psEventDiscarded p a kind

/-- What R178 makes of a record that arrives on Radio Link `p`: the command of its owner, or the
discard of a record whose type the radio does not send or whose body has the wrong length. The tag of
a radio's record is ignored (R176). Section 10.5 names bit 0 of an OUTCOME's flags alone; that bits 1 to 7 are
ignored is the model's choice (DESIGN CHOICE, unsafe: assumption 31). -/
def decodeRadio (p : PortNo) (type : Byte) (body : List Byte) : Instr :=
  let discard := Instr.radioRecordDiscarded p type body
  if type = 0x50 then
    match body with
    | [d] => .hello p d
    | _ => discard
  else if type = 0x51 then
    match body with
    | g :: t0 :: t1 :: rc :: fl :: d0 :: d1 :: d2 :: n :: results =>
      if results.length = n.toNat then
        .outcome p ⟨g, BitVec.ofNat 16 (le2 t0 t1), rc,
          if fl.getLsbD 0 then some (BitVec.ofNat 24 (le3 d0 d1 d2)) else none, results⟩
      else discard
    | _ => discard
  else if type = 0x52 then
    match body with
    | g :: n :: rest =>
      if 92 < n.toNat then discard
      else match parseUlEntries n.toNat rest with
        | some es => .ulOutcome p ⟨g, es⟩
        | none => discard
    | _ => discard
  else if type = 0x53 then
    match body with
    | [a0, a1, b0, b1, b2, b3] =>
      .demand p (BitVec.ofNat 16 (le2 a0 a1)) (BitVec.ofNat 32 (le4 b0 b1 b2 b3))
    | _ => discard
  else if type = 0x54 then
    match body with
    | [a0, a1, k] => psCommand p (BitVec.ofNat 16 (le2 a0 a1)) k
    | _ => discard
  else if type = 0x55 then
    match body with
    | [r] => .hold p r
    | _ => discard
  else if type = 0x56 then
    match body with
    | [] => .resume p
    | _ => discard
  else discard

/-- A demand field of three bytes under its presence flag. -/
def encodeDemand : Option (BitVec 24) → List Byte
  | some d => 1 :: toLe 3 d.toNat
  | none => 0 :: toLe 3 0

def encodeUlEntry (e : UlEntry) : List Byte :=
  toLe 2 e.assoc.toNat ++ toLe 2 e.actual.toNat ++ toLe 3 e.bytes.toNat ++ encodeDemand e.demand

/-- The type and body of the record a radio command stands for; `none` for every other command. -/
def encodeRadio : Instr → Option (Byte × List Byte)
  | .hello _ d => some (0x50, [d])
  | .outcome _ o =>
    some (0x51, o.number :: toLe 2 o.actual.toNat ++ o.rateCode :: encodeDemand o.demand ++
      toLe 1 o.results.length ++ o.results)
  | .ulOutcome _ o =>
    some (0x52, o.number :: toLe 1 o.entries.length ++ o.entries.flatMap encodeUlEntry)
  | .demand _ a b => some (0x53, toLe 2 a.toNat ++ toLe 4 b.toNat)
  | .psEventDoze _ a => some (0x54, toLe 2 a.toNat ++ [0])
  | .psEventWake _ a => some (0x54, toLe 2 a.toNat ++ [1])
  | .psEventTrigger _ a => some (0x54, toLe 2 a.toNat ++ [2])
  | .psEventDiscarded _ a k => some (0x54, toLe 2 a.toNat ++ [k])
  | .hold _ r => some (0x55, [r])
  | .resume _ => some (0x56, [])
  | .radioRecordDiscarded _ t b => some (t, b)
  | _ => none

end Sys2Proof
end

