-- ==== Sys2Proof/Config.lean ====
section
/-! DEFINITION. What the manual fixes for every part, and the values it leaves open. An open value is
an opaque constant: nothing in Lean can evaluate it, so whatever is proved holds for every value. -/

namespace Sys2Proof.Config

/-- 512 station records, 0 to 511 (chapter 1). -/
def stationCount : Nat := 512

/-- 4096 descriptor slots, 0 to 4095 (chapter 2). -/
def slotCount : Nat := 4096

/-- FREE VALUE (assumption 4). Where, among the timer events of one tick already in line, the next
one is put: R124 and R159 let either of two events due together be taken first. The argument is the
model's counter of free choices. -/
opaque tiePlace : Nat → Nat

/-- FREE VALUE (assumption 5). Whether the record in course of sending on a Radio Link has wholly
gone at this tick: R120 gives the order of records, no rule gives the time one takes. The arguments
are the port number and the model's counter of free choices. -/
opaque recordGone : Nat → Nat → Bool

/-- FREE VALUE (assumption 6). The bits of a flags byte that section 10.5 does not name: GRANT 0,
QUERY_STATION reply 1, STATUS part-wide 2, STATUS port block 3. -/
opaque unnamedFlags : Nat → Byte

/-- FREE VALUE (assumption 11). Whether the port state in the reply to START_PORT is read after the
decision that follows: R113 says "the port state after the request" and R116 lets the decision follow
the request. -/
opaque startReplySeesDecision : Bool

/-- FREE VALUE (assumption 8). How many bytes the host clocks on the Control Link in this microsecond:
the host is the clock master (section 10.2) and no row is a byte. The argument is the model's counter
of free choices. -/
opaque bytesClocked : Nat → Nat

/-- FREE VALUE (assumption 8). How many bytes of a frame on the Control Link are clocked since the last
microsecond when the command that ends the frame is taken; the earlier ones went with the microseconds in
which they were clocked. The arguments are the model's counter of free choices and the number of commands
that wait; no two commands of a run share both. -/
opaque frameBytesClocked : Nat → Nat → Nat

end Sys2Proof.Config
end

