-- ==== Sys2Proof/Machine/Table.lean ====
section
/-! DEFINITION. Sparse tables: the one form in which State holds its numbered records (512 stations,
4096 slots, 31 rate codes, 8 weights, 1023 association numbers). A table lists (index, record) pairs
with rising indices and never lists the record an unlisted index reads as, so equal tables are equal
data. -/

namespace Sys2Proof.Machine

/-- A sparse table of records. -/
abbrev Table (α : Type) := List (Nat × α)

/-- The record at index `k`: the listed one, else `d`. -/
def Table.get {α : Type} (d : α) : Table α → Nat → α
  | [], _ => d
  | (j, v) :: t, k => if j = k then v else Table.get d t k

/-- The table without any entry for `k`. -/
def Table.erase {α : Type} (t : Table α) (k : Nat) : Table α := t.filter (fun e => e.1 != k)

/-- `t` with an entry for `k` put before the first larger index. -/
def Table.put {α : Type} (k : Nat) (v : α) : Table α → Table α
  | [] => [(k, v)]
  | (j, w) :: t => if k < j then (k, v) :: (j, w) :: t else (j, w) :: Table.put k v t

/-- The table in which index `k` reads `v` and every other index reads as before. -/
def Table.set {α : Type} [DecidableEq α] (d : α) (t : Table α) (k : Nat) (v : α) : Table α :=
  if v = d then Table.erase t k else Table.put k v (Table.erase t k)

/-- The canonical form: indices strictly rising, no entry equal to the default. -/
abbrev Table.wf {α : Type} [DecidableEq α] (d : α) (t : Table α) : Prop :=
  t.Pairwise (fun a b => a.1 < b.1) ∧ ∀ e ∈ t, e.2 ≠ d

end Sys2Proof.Machine
end

