-- ==== Sys2Proof/Machine/State.lean ====
section
/-! DEFINITION. The state of the part, as plain data: everything the manual gives it (chapters 1 to
10), the records it holds for its neighbours, its time base, the queue of waiting commands, and its
value after reset. -/

namespace Sys2Proof.Machine

/-! ### Stations (R1) -/

inductive StationState
  | vacant
  | active
  | departing
  deriving DecidableEq, Repr

/-- Power-save states (section 8.1). -/
inductive PsState
  | awake
  | doze
  | service
  deriving DecidableEq, Repr

inductive Health
  | healthy
  | degraded
  deriving DecidableEq, Repr

/-- A station record: the fields of the table of R1. A FIFO is its slot numbers, head first; its head,
tail and count are read from it (R24). -/
structure Station where
  state      : StationState
  port       : PortNo
  assoc      : Nat
  cls        : Nat
  rateMode   : Nat
  rateCode   : Nat
  queueCap   : Nat
  frameLimit : Nat
  holding    : Nat
  unreported : Nat
  expFifo    : List Nat
  stdFifo    : List Nat
  dlBalance  : Int
  ulBalance  : Int
  mainCredited : Bool
  ulCredited   : Bool
  dlInFlight   : Bool
  ulInFlight   : Bool
  demand     : Nat
  ps         : PsState
  allowance  : Nat
  deadline   : Word
  health     : Health
  attempts   : Nat
  failures   : Nat
  degradedWindows : Nat
  airDl      : Word
  airUl      : Word
  deriving DecidableEq, Repr

/-- The "Vacant value" column of R1. -/
def Station.vacantRecord : Station :=
  { state := .vacant, port := .zero, assoc := 0, cls := 0, rateMode := 0, rateCode := 1,
    queueCap := 64, frameLimit := 8, holding := 0, unreported := 0, expFifo := [], stdFifo := [],
    dlBalance := 0, ulBalance := 0, mainCredited := false, ulCredited := false,
    dlInFlight := false, ulInFlight := false, demand := 0, ps := .awake, allowance := 0,
    deadline := 0, health := .healthy, attempts := 0, failures := 0, degradedWindows := 0,
    airDl := 0, airUl := 0 }

/-! ### Descriptor slots (section 2.1) -/

inductive SlotState
  | free
  | queued
  | inFlight
  | done
  deriving DecidableEq, Repr

inductive CompletionStatus
  | delivered
  | failed
  | expired
  | flushed
  | lost
  deriving DecidableEq, Repr

/-- A descriptor slot. `linked` says how its link field stands (section 2.1): at the 0 that R21 gives it
while the slot has not left the free stack since the last reset, and from then on chaining the slot in
the list it stands in, from which `State.slotLink` reads it (assumption 7). -/
structure Slot where
  state   : SlotState
  handle  : Word
  station : Nat
  tier    : Tier
  length  : Nat
  solo    : Bool
  enqueued : Word
  status  : CompletionStatus
  linked  : Bool
  deriving DecidableEq, Repr

/-- A slot after reset (R21). -/
def Slot.freeRecord : Slot :=
  { state := .free, handle := 0, station := 0, tier := .expedited, length := 0, solo := false,
    enqueued := 0, status := .delivered, linked := false }

/-- A slot after its completion entry: every field but state and link at its reset value (R41). -/
def Slot.reported : Slot := { Slot.freeRecord with linked := true }

/-! ### Records to the radios (section 10.5) -/

inductive TimKind
  | clear
  | add
  | remove
  deriving DecidableEq, Repr

/-- A record handed to a Radio Link Interface. -/
inductive RadioRecord
  | announce (p : PortNo)
  | grant (number : Byte) (assoc : Nat) (tier : Tier) (endOfService : Bool) (estimate : Nat)
      (frames : List (Word × Nat))
  | ulWindow (number : Byte) (total : Nat) (invitations : List (Nat × Nat))
  | revoke (number : Byte)
  | timUpdate (kind : TimKind) (assoc : Nat)
  | serviceEmpty (assoc : Nat)
  deriving DecidableEq, Repr

/-! ### Ports -/

inductive PortState
  | absent
  | stopped
  | running
  | suspended
  | draining
  deriving DecidableEq, Repr

inductive HoldReason
  | none
  | channelChange
  | beaconPrep
  | calibration
  | other
  deriving DecidableEq, Repr

inductive SuspendReason
  | none
  | idle
  | examinationLimit
  | noRates
  deriving DecidableEq, Repr

/-- One invitation of an uplink window: a station and its allotment. -/
structure Invitation where
  station   : Nat
  allotment : Nat
  deriving DecidableEq, Repr

/-- What an in-flight entry is for: the DL fields or the UL fields of R117. -/
inductive GrantWork
  | dl (station : Nat) (tier : Tier) (slots : List Nat) (estimate : Nat) (endOfService : Bool)
      (revokeRequested : Bool)
  | ul (invitations : List Invitation) (total : Nat)
  deriving DecidableEq, Repr

/-- An entry of a port's in-flight table (R117). -/
structure InFlight where
  number    : Byte
  issueTime : Word
  deadline  : Word
  work      : GrantWork
  deriving DecidableEq, Repr

/-- A disabled rate-table entry, as reset leaves it (R43). -/
def RateEntry.disabledEntry : RateEntry := ⟨0, 0, 0, false⟩

/-- All that is kept once per port: Grant Engine (section 6.1), Rotation Scheduler (section 4.1),
Airtime Estimator's table and parameters (section 3.1), association map (section 1.3), Traffic
Indication Set (R162), Outcome Handler counts (R151), Radio Link Interface (R120, R177, R183). A timer
is `none` while stopped or disarmed, else the time left. -/
structure Port where
  state        : PortState
  hold         : Bool
  holdReason   : HoldReason
  holdTimer    : Option Nat
  depth        : Nat
  inFlight     : List InFlight
  nextNumber   : Byte
  consecutiveTimeouts : Nat
  grantTimeouts     : Nat
  unmatchedOutcomes : Nat
  portLosses        : Nat
  radioRestarts     : Nat
  holdStalls        : Nat
  params       : PortParams
  rates        : Table RateEntry
  mainRot      : List Nat
  expRot       : List Nat
  ulRot        : List Nat
  budget       : Nat
  epochTimer   : Option Nat
  sinceUplink  : Nat
  resumeTimer  : Option Nat
  suspendReason : SuspendReason
  resultAnomalies : Nat
  rateIgnored     : Nat
  assocMap     : Table (Option Nat)
  tis          : List Nat
  badFrames    : Nat
  discarded    : Nat
  huntCounted  : Bool
  outbound     : List RadioRecord
  deriving DecidableEq, Repr

/-- The defaults of R111. -/
def PortParams.defaults : PortParams :=
  { dlQuantum := 4000, ulQuantum := 2000, airtimeCap := 4000, aggLimit := 32, trim := 0,
    epochLength := 100, expShare := 25, ulRatio := 3, windowLength := 2000, ulMax := 4,
    grantTimeout := 20, holdLimit := 500, serviceTimeout := 50 }

/-- A port after reset (R3, R43, R63, R107, R112, R135, R152, R183). -/
def Port.afterReset : Port :=
  { state := .absent, hold := false, holdReason := .none, holdTimer := none, depth := 1,
    inFlight := [], nextNumber := 0, consecutiveTimeouts := 0, grantTimeouts := 0,
    unmatchedOutcomes := 0, portLosses := 0, radioRestarts := 0, holdStalls := 0,
    params := PortParams.defaults, rates := [], mainRot := [], expRot := [], ulRot := [],
    budget := 25000, epochTimer := none, sinceUplink := 0, resumeTimer := none,
    suspendReason := .none, resultAnomalies := 0, rateIgnored := 0, assocMap := [], tis := [],
    badFrames := 0, discarded := 0, huntCounted := false, outbound := [] }

/-! ### Notices (R182) -/

inductive PortEventKind
  | present
  | restarted
  | lost
  | stopped
  | holdBegin
  | holdEnd
  | stalled
  deriving DecidableEq, Repr

/-- What began an initialization (R186). -/
inductive ResetCause
  | resetN
  | resetPart
  deriving DecidableEq, Repr

/-- One entry of a COMPLETION notice (R148). -/
structure CompletionEntry where
  handle  : Word
  station : Nat
  status  : CompletionStatus
  deriving DecidableEq, Repr

inductive NoticeBody
  | completion (entries : List CompletionEntry)
  | departDone (station : Nat)
  | stationHealth (station : Nat) (health : Health) (failures : Nat)
  | portEvent (port : PortNo) (kind : PortEventKind) (reason : HoldReason)
  | ready (cause : ResetCause)
  deriving DecidableEq, Repr

/-- A notice in the notice queue, with its lost-before flag. -/
structure Notice where
  lostBefore : Bool
  body       : NoticeBody
  deriving DecidableEq, Repr

/-! ### Replies (R181) -/

inductive ReplyCode
  | ok
  | partialAccepted
  | badType
  | badRecord
  | badStation
  | notVacant
  | notAdmitted
  | duplicateAssoc
  | portAbsent
  | portState
  | noRates
  | departing
  | poolEmpty
  | queueFull
  | badFrameLength
  | notReady
  deriving DecidableEq, Repr

/-- The states of the coalescing timer (R146). -/
inductive CoalTimer
  | stopped
  | running
  | expired
  deriving DecidableEq, Repr

/-- What QUERY_STATION reports (R19). -/
structure StationReport where
  station    : Nat
  state      : StationState
  port       : PortNo
  assoc      : Nat
  cls        : Nat
  rateMode   : Nat
  rateCode   : Nat
  effectiveCode : Nat
  queueCap   : Nat
  frameLimit : Nat
  holding    : Nat
  unreported : Nat
  expCount   : Nat
  stdCount   : Nat
  dlBalance  : Int
  ulBalance  : Int
  mainCredited : Bool
  ulCredited   : Bool
  inMain     : Bool
  inExpedited : Bool
  inUplink   : Bool
  dlInFlight : Bool
  ulInFlight : Bool
  demand     : Nat
  ps         : PsState
  allowance  : Nat
  timeToDeadline : Nat
  health     : Health
  attempts   : Nat
  failures   : Nat
  degradedWindows : Nat
  airDl      : Word
  airUl      : Word
  deriving DecidableEq, Repr

/-- One in-flight entry as STATUS reports it (R134). -/
structure EntryReport where
  number   : Byte
  isUplink : Bool
  timeLeft : Nat
  deriving DecidableEq, Repr

/-- The port block of STATUS (R87, R134, R151, R167). -/
structure PortReport where
  state        : PortState
  hold         : Bool
  resumeArmed  : Bool
  holdReason   : HoldReason
  holdTimeLeft : Nat
  depth        : Nat
  inFlightCount : Nat
  entries      : List EntryReport
  nextNumber   : Byte
  consecutiveTimeouts : Nat
  grantTimeouts     : Nat
  unmatchedOutcomes : Nat
  portLosses        : Nat
  radioRestarts     : Nat
  holdStalls        : Nat
  params       : PortParams
  resultAnomalies : Nat
  rateIgnored     : Nat
  mainCount    : Nat
  expCount     : Nat
  ulCount      : Nat
  mainHead     : Nat
  budget       : Nat
  fullBudget   : Nat
  sinceUplink  : Nat
  epochTimeLeft : Nat
  suspendReason : SuspendReason
  tisCount     : Nat
  dozeCount    : Nat
  serviceCount : Nat
  deriving DecidableEq, Repr

/-- What STATUS reports (R184). -/
structure StatusReport where
  initializing : Bool
  lossPending  : Bool
  controlBadFrames : Nat
  overruns     : Nat
  badFrames0   : Nat
  discarded0   : Nat
  badFrames1   : Nat
  discarded1   : Nat
  inboundCount : Nat
  noticeCount  : Nat
  freeCount    : Nat
  queuedCount  : Nat
  inFlightCount : Nat
  doneCount    : Nat
  lifetimes    : Lifetimes
  doneLength   : Nat
  completionCount : Nat
  coalTimer    : CoalTimer
  monitor      : MonitorSettings
  weights      : List Nat
  port0        : PortReport
  port1        : PortReport
  deriving DecidableEq, Repr

/-- What a reply carries after its status. -/
inductive ReplyFields
  | nothing
  | params (q : PortParams)
  | enabledCodes (n : Nat)
  | weights (ws : List Nat)
  | monitor (m : MonitorSettings)
  | lifetimes (l : Lifetimes)
  | portState (st : PortState)
  | queueCap (n : Nat)
  | enqueue (accepted : Nat) (firstFailure : ReplyCode)
  | flushed (n : Nat)
  | station (r : StationReport)
  | status (r : StatusReport)
  deriving DecidableEq, Repr

/-- The reply buffer's record (R181). -/
structure Reply where
  type   : Byte
  tag    : Byte
  code   : ReplyCode
  fields : ReplyFields
  deriving DecidableEq, Repr

/-! ### The Control Link Interface -/

/-- What the Control Link sends: the reply in the buffer, or the oldest notice (R180). -/
inductive Outgoing
  | reply
  | notice
  deriving DecidableEq, Repr

/-- A record in course of being clocked out, and how many bytes of its frame have gone (R180). -/
structure Sending where
  what : Outgoing
  gone : Nat
  deriving DecidableEq, Repr

/-- The Control Link Interface: inbound request queue, reply buffer, notice queue, loss-pending
marker, counts, receiver, and the record partly clocked out, if there is one. -/
structure ControlLink where
  inbound     : List Record
  reply       : Option Reply
  notices     : List Notice
  lossPending : Bool
  badFrames   : Nat
  overruns    : Nat
  huntCounted : Bool
  sending     : Option Sending
  deriving DecidableEq, Repr

def ControlLink.afterReset : ControlLink :=
  { inbound := [], reply := none, notices := [], lossPending := false, badFrames := 0,
    overruns := 0, huntCounted := false, sending := none }

/-! ### The rest -/

/-- A Done List entry: a slot and its join time (section 7.1). -/
structure DoneEntry where
  slot   : Nat
  joined : Word
  deriving DecidableEq, Repr

/-- The time base: the free-running microsecond count, the microseconds since the last millisecond
tick, the millisecond timestamp (00_scope "Units and the time base"). -/
structure Clock where
  us     : Word
  usInMs : Nat
  ms     : Word
  deriving DecidableEq, Repr

/-- Initialization (R186): under way or not, the microseconds it may still take, its cause. -/
structure Init where
  active : Bool
  left   : Nat
  cause  : ResetCause
  deriving DecidableEq, Repr

/-- The whole part, and the queue of commands that wait to be taken. `resetLow`: the input RESET_N is
low. `freeIx` counts the free choices made (assumptions 4, 5 and 8). -/
structure State where
  resetLow  : Bool
  clock     : Clock
  init      : Init
  cli       : ControlLink
  stations  : Table Station
  slots     : Table Slot
  freeStack : List Nat
  done      : List DoneEntry
  coalTimer : CoalTimer
  lifetimes : Lifetimes
  weights   : Table Nat
  monitor   : MonitorSettings
  port0     : Port
  port1     : Port
  freeIx    : Nat
  pending   : List Instr
  deriving DecidableEq, Repr

/-- The defaults of R34. -/
def Lifetimes.defaults : Lifetimes := ⟨100, 2000, 100⟩

/-- The defaults of R168. -/
def MonitorSettings.defaults : MonitorSettings := ⟨64, 24, 8, 4, 50⟩

/-- Class weights unlisted in the table read 16 (R43). -/
def weightDefault : Nat := 16

/-- The part right after the release of RESET_N at power-on: every item at its reset value (R1, R3,
R21, R34, R43, R63, R89, R107, R112, R135, R152, R168, R183, R186), initialization just begun. The
time base starts at 0 (assumption 3). -/
def State.reset : State :=
  { resetLow := false, clock := ⟨0, 0, 0⟩, init := ⟨true, 1000, .resetN⟩, cli := ControlLink.afterReset,
    stations := [], slots := [], freeStack := List.range' 0 4096, done := [],
    coalTimer := .stopped, lifetimes := Lifetimes.defaults, weights := [],
    monitor := MonitorSettings.defaults, port0 := Port.afterReset, port1 := Port.afterReset,
    freeIx := 0, pending := [] }

/-- Why the part would stop. Nothing in the manual stops it: no command of the model answers a
fault, so the type has no constructor. -/
inductive Fault
  deriving DecidableEq, Repr

/-- Why a command has no meaning. -/
inductive Refusal
  /-- Raised only by an arm of `exec` for a command without a meaning. No arm of this model raises
  it. Safe: the machine stops instead of inventing an effect. -/
  | notModelled (mnemonic : String)
  deriving DecidableEq, Repr

end Sys2Proof.Machine
end

