-- ==== Sys2Proof/Machine/Operands.lean ====
section
/-! DEFINITION. How a command's operands become stored values (the clamps of 00_scope "Programmed
values out of range"), and the saturating and wrapping arithmetic of 00_scope "Arithmetic". -/

namespace Sys2Proof.Machine

/-- A tunable field clamped to the nearer limit of its range. -/
def clamp (lo hi n : Nat) : Nat := max lo (min hi n)

/-- The same for a signed field. -/
def clampInt (lo hi n : Int) : Int := max lo (min hi n)

/-- A balance stops at the limits of its range. -/
def satBalance (x : Int) : Int := clampInt (-32768) 32767 x

/-- A 16-bit event count stops at 65535. -/
def satCount (n : Nat) : Nat := min 65535 (n + 1)

/-- The aggregate limit as stored (R45): 0 and values above 64 give 64, any other value the greatest
power of two not above it. -/
def roundAggLimit (n : Nat) : Nat :=
  if n = 0 ∨ 64 ≤ n then 64
  else if 32 ≤ n then 32
  else if 16 ≤ n then 16
  else if 8 ≤ n then 8
  else if 4 ≤ n then 4
  else if 2 ≤ n then 2
  else 1

/-- The thirteen values as an accepted CONFIGURE_PORT stores them (R111). -/
def clampParams (q : PortParams) : PortParams :=
  { dlQuantum := clamp 500 20000 q.dlQuantum
    ulQuantum := clamp 200 20000 q.ulQuantum
    airtimeCap := clamp 100 8000 q.airtimeCap
    aggLimit := roundAggLimit q.aggLimit
    trim := clampInt (-7) 7 q.trim
    epochLength := clamp 10 1000 q.epochLength
    expShare := clamp 0 100 q.expShare
    ulRatio := clamp 0 15 q.ulRatio
    windowLength := clamp 200 4000 q.windowLength
    ulMax := clamp 1 8 q.ulMax
    grantTimeout := clamp 2 200 q.grantTimeout
    holdLimit := clamp 10 2000 q.holdLimit
    serviceTimeout := clamp 5 200 q.serviceTimeout }

/-- One rate entry as stored (R47). -/
def clampRate (e : RateEntry) : RateEntry :=
  { rate := clamp 2 4800 e.rate, grantOverhead := clamp 0 1023 e.grantOverhead,
    frameOverhead := clamp 0 255 e.frameOverhead, enabled := e.enabled }

/-- One class weight as stored (R48). -/
def clampWeight (n : Nat) : Nat := clamp 1 64 n

/-- The monitor settings as stored, each clamped against those before it (R173). -/
def clampMonitor (m : MonitorSettings) : MonitorSettings :=
  let window := clamp 16 255 m.window
  let degrade := clamp 1 window m.degrade
  let recover := clamp 0 (degrade - 1) m.recover
  { window, degrade, recover, aggLimit := clamp 1 64 m.aggLimit,
    percent := clamp 25 100 m.percent }

/-- The lifetimes as stored (R34). -/
def clampLifetimes (l : Lifetimes) : Lifetimes :=
  { expedited := clamp 0 30000 l.expedited, standard := clamp 0 30000 l.standard,
    coalescing := clamp 0 1000 l.coalescing }

/-- The tunable fields of a station (R6). -/
def clampClass (n : Nat) : Nat := clamp 0 7 n
def clampRateMode (n : Nat) : Nat := clamp 0 31 n
def clampRateCode (n : Nat) : Nat := clamp 1 31 n
def clampQueueCap (n : Nat) : Nat := clamp 8 256 n
def clampFrameLimit (n : Nat) : Nat := clamp 1 64 n

/-- An uplink demand as stored (R90). -/
def clampDemand (n : Nat) : Nat := min 16777215 n

/-- The window depth a HELLO carries, as stored (R109). -/
def clampDepth (d : Byte) : Nat := clamp 1 4 d.toNat

/-- The hold reason a HOLD carries (R129, section 10.5). -/
def holdReasonOf (b : Byte) : HoldReason :=
  if b = 1 then .channelChange else if b = 2 then .beaconPrep else if b = 3 then .calibration
  else .other

/-- The port a port field names; `none` above 1. -/
def portOf (n : Nat) : Option PortNo :=
  if n = 0 then some .zero else if n = 1 then some .one else none

/-- A result value of an OUTCOME (section 10.5): 0 DELIVERED, 1 FAILED, 2 UNSENT, any other FAILED
(R138). -/
inductive Result
  | delivered
  | failed
  | unsent
  deriving DecidableEq, Repr

def resultOf (b : Byte) : Result :=
  if b = 0 then .delivered else if b = 2 then .unsent else .failed

/-- Time between two 32-bit counts, modulo 2^32 (00_scope "Units and the time base"). -/
def elapsed (now start : Word) : Nat := (now - start).toNat

/-- A timestamp has been reached by `now`: timestamps are compared modulo 2^32 (assumption 9). -/
def reached (now t : Word) : Bool := decide (elapsed now t < 2147483648)

/-- The time left to a timestamp, 0 once it is reached. -/
def timeLeft (now t : Word) : Nat := if reached now t then 0 else elapsed t now

end Sys2Proof.Machine
end

