-- ==== Sys2Proof/Machine/Airtime.lean ====
section
/-! DEFINITION. Chapter 3, Airtime Arithmetic: effective codes, downlink estimates, the ruling on a
candidate frame, uplink allotments, quanta, the full expedited budget. Pure arithmetic on the tables
and parameters as they stand. -/

namespace Sys2Proof.Machine

/-- The entry of a rate code of the port. -/
def Port.rate (q : Port) (code : Nat) : RateEntry := Table.get RateEntry.disabledEntry q.rates code

/-- The port's enabled codes, ascending. -/
def Port.enabledCodes (q : Port) : List Nat :=
  (List.range' 1 31).filter (fun c => (q.rate c).enabled)

/-- The code a station names (R49 step 1). -/
def Station.namedCode (r : Station) : Nat := if r.rateMode = 0 then r.rateCode else r.rateMode

/-- The effective code of a named code: itself if enabled, else the highest enabled code below it,
else the lowest above it (R49); `none` when the port has no enabled code (R50). -/
def Port.effectiveCode (q : Port) (named : Nat) : Option Nat :=
  let codes := q.enabledCodes
  if codes.contains named then some named
  else match (codes.filter (fun c => decide (c < named))).getLast? with
    | some c => some c
    | none => (codes.filter (fun c => decide (named < c))).head?

/-- The entry of a station's effective code on its port; a disabled entry if there is none. -/
def Port.effectiveRate (q : Port) (r : Station) : RateEntry :=
  match q.effectiveCode r.namedCode with
  | some c => q.rate c
  | none => RateEntry.disabledEntry

/-- `16 × bytes ÷ rate`, rounded up. -/
def payloadTime (rate bytes : Nat) : Nat := (16 * bytes + (rate - 1)) / rate

/-- The bytes an aggregate counts: each frame's length plus the code's frame overhead (R51 step 1). -/
def aggregateBytes (c : RateEntry) (lengths : List Nat) : Nat :=
  (lengths.map (· + c.frameOverhead)).sum

/-- The downlink estimate (R51, R52). -/
def dlEstimate (c : RateEntry) (trim : Int) (lengths : List Nat) : Nat :=
  (clampInt 1 65535
    (c.grantOverhead + 4 * trim + payloadTime c.rate (aggregateBytes c lengths))).toNat

/-- The size limit of a take (R53). -/
def sizeLimit (q : Port) (m : MonitorSettings) (r : Station) : Nat :=
  let a := q.params.aggLimit
  let b := if r.health = .degraded then min a m.aggLimit else a
  if r.ps = .service then min b r.allowance else b

/-- The Estimator's ruling on a candidate (R54). -/
inductive Ruling
  | refused
  | accepted (closed : Bool)
  deriving DecidableEq, Repr

/-- R54: `lengths` are the frames already taken. -/
def ruleOn (c : RateEntry) (trim : Int) (cap limit : Nat) (lengths : List Nat) (length : Nat)
    (solo : Bool) : Ruling :=
  if lengths.length = 0 then .accepted (solo || decide (limit ≤ 1))
  else if solo then .refused
  else if cap < dlEstimate c trim (lengths ++ [length]) then .refused
  else .accepted (decide (lengths.length + 1 = limit))

/-- The allotment of an invited station (R56). -/
def ulAllotment (c : RateEntry) (trim : Int) (windowLength demand : Nat) : Nat :=
  let need := payloadTime c.rate (min demand 65535 + c.frameOverhead)
  let slice := max 64 (min need (windowLength / 8))
  (c.grantOverhead + 4 * trim + (slice : Int)).toNat

/-- A quantum: the port's quantum scaled by the class weight, cut for a DEGRADED station (R58). -/
def quantum (portQuantum weight : Nat) (m : MonitorSettings) (h : Health) : Nat :=
  let base := max 1 (portQuantum * weight / 16)
  if h = .degraded then max 1 (base * m.percent / 100) else base

/-- The full expedited budget (R59). -/
def fullBudget (q : PortParams) : Nat := q.epochLength * 1000 * q.expShare / 100

end Sys2Proof.Machine
end

