-- ==== Sys2Proof/Machine/Access.lean ====
section
/-! DEFINITION. Reading and writing the parts of State: every meaning goes through these, and the
lemmas of Sys2Proof/Laws/State.lean say what each leaves alone. -/

namespace Sys2Proof.Machine

/-! ### Ports -/

def State.port (s : State) : PortNo → Port
  | .zero => s.port0
  | .one => s.port1

def State.setPort (s : State) (p : PortNo) (q : Port) : State :=
  match p with
  | .zero => { s with port0 := q }
  | .one => { s with port1 := q }

def State.modPort (s : State) (p : PortNo) (f : Port → Port) : State := s.setPort p (f (s.port p))

/-! ### Stations and slots -/

/-- The record of station `i`; an unlisted one is VACANT (R1). -/
def State.station (s : State) (i : Nat) : Station := Table.get Station.vacantRecord s.stations i

def State.setStation (s : State) (i : Nat) (r : Station) : State :=
  { s with stations := Table.set Station.vacantRecord s.stations i r }

def State.modStation (s : State) (i : Nat) (f : Station → Station) : State :=
  s.setStation i (f (s.station i))

/-- The record of slot `k`; an unlisted one is FREE (R21). -/
def State.slot (s : State) (k : Nat) : Slot := Table.get Slot.freeRecord s.slots k

def State.setSlot (s : State) (k : Nat) (v : Slot) : State :=
  { s with slots := Table.set Slot.freeRecord s.slots k v }

def State.modSlot (s : State) (k : Nat) (f : Slot → Slot) : State := s.setSlot k (f (s.slot k))

/-- The port a station is bound to. -/
def State.portOfStation (s : State) (i : Nat) : PortNo := (s.station i).port

/-- The station indices that are not VACANT, ascending. -/
def State.bound (s : State) : List Nat := s.stations.map Prod.fst

def Station.fifo (r : Station) : Tier → List Nat
  | .expedited => r.expFifo
  | .standard => r.stdFifo

def Station.setFifo (r : Station) (t : Tier) (l : List Nat) : Station :=
  match t with
  | .expedited => { r with expFifo := l }
  | .standard => { r with stdFifo := l }

/-- The number of the station's QUEUED slots, both tiers together. -/
def Station.queuedCount (r : Station) : Nat := r.expFifo.length + r.stdFifo.length

/-! ### The Control Link Interface -/

def State.modCli (s : State) (f : ControlLink → ControlLink) : State := { s with cli := f s.cli }

/-! ### Tables of settings and maps -/

/-- The weight of a class (R48). -/
def State.weight (s : State) (cls : Nat) : Nat := Table.get weightDefault s.weights cls

/-- The station an association number names on a port (R4). -/
def Port.mapped (q : Port) (assoc : Nat) : Option Nat := Table.get none q.assocMap assoc

def Port.setMapped (q : Port) (assoc : Nat) (v : Option Nat) : Port :=
  { q with assocMap := Table.set none q.assocMap assoc v }

/-! ### In-flight entries -/

/-- The entry that holds a grant number. -/
def Port.entry (q : Port) (number : Byte) : Option InFlight :=
  q.inFlight.find? (fun e => e.number == number)

/-- The entry is a DL entry for station `i`. -/
def InFlight.isDlOf (e : InFlight) (i : Nat) : Bool :=
  match e.work with
  | .dl station .. => station == i
  | .ul .. => false

/-- The DL entry of station `i` with its end-of-service flag set to `b`; any other entry as it is. -/
def InFlight.withEos (e : InFlight) (i : Nat) (b : Bool) : InFlight :=
  match e.work with
  | .dl station tier slots estimate eos revoked =>
    { e with work := .dl station tier slots estimate (if station = i then b else eos) revoked }
  | .ul .. => e

/-- The DL entry of station `i` with its revoke-requested flag set; any other entry as it is. -/
def InFlight.withRevoke (e : InFlight) (i : Nat) : InFlight :=
  match e.work with
  | .dl station tier slots estimate eos revoked =>
    { e with work := .dl station tier slots estimate eos (revoked || station == i) }
  | .ul .. => e

/-- A slot's link field (section 2.1): 0 as R21 leaves it, and once the slot is linked the next slot of
the free stack, of its FIFO, of its grant's slot list or of the Done List, by its state
(assumption 7). -/
def State.slotLink (s : State) (k : Nat) : Option Nat :=
  let nextIn (l : List Nat) : Option Nat := (l.dropWhile (· != k))[1]?
  let v := s.slot k
  if v.linked = false then some 0 else match v.state with
  | .free => nextIn s.freeStack
  | .queued => nextIn ((s.station v.station).fifo v.tier)
  | .done => nextIn (s.done.map DoneEntry.slot)
  | .inFlight =>
    ((s.port (s.portOfStation v.station)).inFlight.filterMap (fun e =>
      match e.work with
      | .dl _ _ slots .. => if slots.contains k then nextIn slots else none
      | .ul .. => none)).head?

end Sys2Proof.Machine
end

