-- ==== Sys2Proof/Machine/Flags.lean ====
section
/-! DEFINITION. The conditions the rules test: memberships, room, opportunities, timers that are due,
the two output lines of the Control Link, the slot-state counts. -/

namespace Sys2Proof.Machine

/-! ### Memberships (R64, R93, R162) -/

/-- The membership condition of the main rotation (R64). -/
def Station.qualifiesMain (r : Station) : Bool :=
  r.state == .active && r.ps != .doze && !(r.expFifo.isEmpty && r.stdFifo.isEmpty)

/-- The membership condition of the expedited rotation (R64). -/
def Station.qualifiesExp (r : Station) : Bool :=
  r.state == .active && r.ps != .doze && !r.expFifo.isEmpty

/-- The membership condition of the uplink rotation (R93). -/
def Station.qualifiesUl (r : Station) : Bool :=
  r.state == .active && r.ps == .awake && decide (0 < r.demand)

/-- The membership condition of the Traffic Indication Set (R162). -/
def Station.qualifiesTis (r : Station) : Bool :=
  r.ps != .awake && !(r.expFifo.isEmpty && r.stdFifo.isEmpty)

/-! ### Ports -/

/-- Grants, TIM_UPDATE and the epoch timer live in these three states (R85, R117, R163). -/
def PortState.live : PortState → Bool
  | .running | .suspended | .draining => true
  | .absent | .stopped => false

/-- The port has an opportunity (R116). -/
def Port.hasOpportunity (q : Port) : Bool :=
  q.state == .running && !q.hold && decide (q.inFlight.length < q.depth)

/-- The port has an enabled code (R50, R72). -/
def Port.hasRates (q : Port) : Bool := !q.enabledCodes.isEmpty

/-! ### The Control Link (R179, R180) -/

/-- RDY is high: the inbound queue holds fewer than 4 records and RESET_N is high (R179). -/
def State.rdy (s : State) : Bool := !s.resetLow && decide (s.cli.inbound.length < 4)

/-- ATTN is asserted: a reply waits or the notice queue holds a notice, partly clocked out or not, and
RESET_N is high (R180). -/
def State.attn (s : State) : Bool := !s.resetLow && (s.cli.reply.isSome || !s.cli.notices.isEmpty)

/-- The record the Control Link sends: the one partly clocked out, to its end; with none, the reply if
one waits, else the oldest notice (R180). -/
def ControlLink.turn (c : ControlLink) : Option Outgoing :=
  match c.sending with
  | some x => some x.what
  | none =>
    if c.reply.isSome then some .reply else if c.notices.isEmpty then none else some .notice

/-- The last byte of a reply can be the next record's end: a reply waits and it is its turn (R180). -/
def ControlLink.replyLeaves (c : ControlLink) : Bool :=
  c.reply.isSome && c.turn == some .reply

/-- The same of the oldest notice. -/
def ControlLink.noticeLeaves (c : ControlLink) : Bool :=
  !c.notices.isEmpty && c.turn == some .notice

def NoticeBody.isCompletion : NoticeBody → Bool
  | .completion _ => true
  | _ => false

/-- The number of COMPLETION notices in the notice queue. -/
def ControlLink.completionCount (c : ControlLink) : Nat :=
  (c.notices.filter (fun n => n.body.isCompletion)).length

/-- The notice queue has room for a completion (R147). -/
def ControlLink.roomForCompletion (c : ControlLink) : Bool :=
  decide (c.completionCount < 48) && decide (c.notices.length < 64)

/-- A COMPLETION notice can be formed (R147). -/
def State.canForm (s : State) : Bool :=
  s.cli.roomForCompletion &&
    (decide (16 ≤ s.done.length) || (!s.done.isEmpty && s.coalTimer == .expired))

/-! ### Lifetimes and timers -/

def Lifetimes.ofTier (l : Lifetimes) : Tier → Nat
  | .expedited => l.expedited
  | .standard => l.standard

/-- The frame of slot `v` is past its lifetime (R35). -/
def State.pastLifetime (s : State) (v : Slot) : Bool :=
  let life := Lifetimes.ofTier s.lifetimes v.tier
  decide (life ≠ 0) && decide (life < elapsed s.clock.ms v.enqueued)

/-- The entry has reached its deadline (R124): its age reaches the timeout stored at issue. -/
def InFlight.due (e : InFlight) (now : Word) : Bool :=
  decide (elapsed e.deadline e.issueTime ≤ elapsed now e.issueTime)

/-- The head of the Done List has waited the coalescing time (R146). -/
def coalTimerOf (done : List DoneEntry) (now : Word) (coalescing : Nat) : CoalTimer :=
  match done with
  | [] => .stopped
  | d :: _ => if coalescing ≤ elapsed now d.joined then .expired else .running

/-- The station's service period has reached its deadline (R159). -/
def State.serviceDue (s : State) (i : Nat) : Bool :=
  (s.station i).ps == .service && reached s.clock.ms (s.station i).deadline

/-! ### Slot-state counts (R22) -/

/-- The number of slots in a state. An unlisted slot is FREE. -/
def State.slotCount (s : State) (st : SlotState) : Nat :=
  let listed := s.slots.filter (fun e => e.2.state == st)
  if st = .free then 4096 - (s.slots.length - listed.length) else listed.length

end Sys2Proof.Machine
end

