-- ==== Sys2Proof/Machine/Ops.lean ====
section
/-! DEFINITION. The operations the commands share: notices, departures, completions, rotations, the
Traffic Indication Set, queue events, slot transitions, power-save changes, and the end of a grant.
Each is a total function of the state. -/

namespace Sys2Proof.Machine

/-! ### The notice queue (R182) -/

/-- A notice joins the tail and carries the loss-pending marker, which is then cleared. -/
def State.appendNotice (s : State) (b : NoticeBody) : State :=
  s.modCli fun c => { c with notices := c.notices ++ [⟨c.lossPending, b⟩], lossPending := false }

/-- A notice of a kind other than COMPLETION: dropped when 64 notices wait. -/
def State.placeNotice (s : State) (b : NoticeBody) : State :=
  if s.cli.notices.length < 64 then s.appendNotice b
  else s.modCli fun c => { c with lossPending := true }

/-! ### Departure completion (R16, R17) -/

/-- The three things R16 asks of a DEPARTING record, and the one R16 draws from them: no downlink
grant in flight. The last is not yet so while the outcome or loss that settles the station's slots is
still at work, and the departure waits for the grant's end (assumption 10). -/
def State.departureHolds (s : State) (i : Nat) : Bool :=
  let r := s.station i
  r.state == .departing && r.holding == 0 && r.unreported == 0 && !r.ulInFlight && !r.dlInFlight

/-- The record becomes VACANT and DEPART_DONE is placed (R17). -/
def State.completeDeparture (s : State) (i : Nat) : State :=
  let r := s.station i
  ((s.modPort r.port fun q => q.setMapped r.assoc none).setStation i
    Station.vacantRecord).placeNotice (.departDone i)

/-- The test of R16 for one station. -/
def State.testDeparture (s : State) (i : Nat) : State :=
  if s.departureHolds i then s.completeDeparture i else s

/-! ### The Done List and COMPLETION notices (section 7.4, 7.5) -/

/-- The entry that reports a slot (R148 step 2). -/
def State.completionEntry (s : State) (k : Nat) : CompletionEntry :=
  let v := s.slot k
  ⟨v.handle, v.station, v.status⟩

/-- A reported slot goes to the free stack (R41). -/
def State.freeSlot (s : State) (k : Nat) : State :=
  let v := s.slot k
  let s1 := s.modStation v.station fun r => { r with unreported := r.unreported - 1 }
  let s2 := s1.setSlot k Slot.reported
  { s2 with freeStack := k :: s2.freeStack }

/-- Forming one COMPLETION notice (R148). Testing a departed station's record again changes nothing,
so step 5 tests the owners entry by entry. -/
def State.formNotice (s : State) : State :=
  let batch := (s.done.take 16).map DoneEntry.slot
  let owners := batch.map fun k => (s.slot k).station
  let s1 := s.appendNotice (.completion (batch.map s.completionEntry))
  let s2 := batch.foldl State.freeSlot { s1 with done := s.done.drop 16 }
  let s3 := owners.foldl State.testDeparture s2
  { s3 with coalTimer := coalTimerOf s3.done s3.clock.us s3.lifetimes.coalescing }

/-- Notices are formed one after another while the condition of R147 holds; each takes an entry. -/
def State.formWhile : Nat → State → State
  | 0, s => s
  | n + 1, s => if s.canForm then State.formWhile n s.formNotice else s

/-- The completion-forming test of R147. -/
def State.testCompletion (s : State) : State := State.formWhile s.done.length s

/-- A slot joins the tail of the Done List (R145), and the timer runs if the list was empty (R146). -/
def State.appendDone (s : State) (k : Nat) : State :=
  let s1 := { s with done := s.done ++ [DoneEntry.mk k s.clock.us] }
  if s.done.isEmpty then
    { s1 with coalTimer := coalTimerOf s1.done s1.clock.us s1.lifetimes.coalescing }
  else s1

/-- A slot joins the Done List and the test of R147 is made. -/
def State.joinDone (s : State) (k : Nat) : State := (s.appendDone k).testCompletion

/-! ### Records to a radio (R120) -/

/-- A record joins the tail of a Radio Link's outbound queue. -/
def State.send (s : State) (p : PortNo) (r : RadioRecord) : State :=
  s.modPort p fun q => { q with outbound := q.outbound ++ [r] }

/-- A TIM_UPDATE is sent while the port is RUNNING, SUSPENDED or DRAINING (R163). -/
def State.sendTim (s : State) (p : PortNo) (k : TimKind) (assoc : Nat) : State :=
  if (s.port p).state.live then s.send p (.timUpdate k assoc) else s

/-- A SERVICE_EMPTY for a station is sent unless its port is ABSENT (R166). -/
def State.sendServiceEmpty (s : State) (i : Nat) : State :=
  let r := s.station i
  if (s.port r.port).state = .absent then s else s.send r.port (.serviceEmpty r.assoc)

/-! ### Rotations (R64 to R66, R93 to R95) -/

/-- A wake cause returns a SUSPENDED port to RUNNING (R81); the resume timer is disarmed (R82). -/
def Port.wake (q : Port) : Port :=
  if q.state = .suspended then
    { q with state := .running, suspendReason := .none, resumeTimer := none }
  else q

def State.wake (s : State) (p : PortNo) : State := s.modPort p Port.wake

/-- A list with `i` taken from its place and put at the tail. -/
def toTail (i : Nat) (l : List Nat) : List Nat := l.filter (· != i) ++ [i]

/-- The main-rotation test: join at the tail, waking the port, or leave. On leaving, main-credited is
cleared and, where `zero` is set, a positive DL balance becomes 0 (R66); a take leaves the zeroing to
after the charge (R67). -/
def State.retestMain (s : State) (i : Nat) (zero : Bool) : State :=
  let r := s.station i
  let member := (s.port r.port).mainRot.contains i
  if r.qualifiesMain then
    if member then s
    else (s.modPort r.port fun q => { q with mainRot := q.mainRot ++ [i] }).wake r.port
  else if member then
    (s.modPort r.port fun q => { q with mainRot := q.mainRot.filter (· != i) }).modStation i
      fun r => { r with mainCredited := false,
                        dlBalance := if zero then min 0 r.dlBalance else r.dlBalance }
  else s

/-- The expedited-rotation test; leaving changes no balance and no flag (R66). -/
def State.retestExp (s : State) (i : Nat) : State :=
  let r := s.station i
  let member := (s.port r.port).expRot.contains i
  if r.qualifiesExp then
    if member then s
    else (s.modPort r.port fun q => { q with expRot := q.expRot ++ [i] }).wake r.port
  else if member then
    s.modPort r.port fun q => { q with expRot := q.expRot.filter (· != i) }
  else s

/-- The uplink-rotation test (R94, R95). -/
def State.retestUl (s : State) (i : Nat) : State :=
  let r := s.station i
  let member := (s.port r.port).ulRot.contains i
  if r.qualifiesUl then
    if member then s
    else (s.modPort r.port fun q => { q with ulRot := q.ulRot ++ [i] }).wake r.port
  else if member then
    (s.modPort r.port fun q => { q with ulRot := q.ulRot.filter (· != i) }).modStation i
      fun r => { r with ulCredited := false, ulBalance := min 0 r.ulBalance }
  else s

/-- A positive DL balance of a station outside its main rotation becomes 0 (R61, R67). -/
def State.zeroDlOutside (s : State) (i : Nat) : State :=
  let r := s.station i
  if (s.port r.port).mainRot.contains i then s
  else s.modStation i fun r => { r with dlBalance := min 0 r.dlBalance }

/-- A positive UL balance of a station outside its uplink rotation becomes 0 (R61). -/
def State.zeroUlOutside (s : State) (i : Nat) : State :=
  let r := s.station i
  if (s.port r.port).ulRot.contains i then s
  else s.modStation i fun r => { r with ulBalance := min 0 r.ulBalance }

/-- The true-up of a downlink grant (R61, R70). -/
def State.trueUpDl (s : State) (i : Nat) (estimate actual : Nat) : State :=
  (s.modStation i fun r =>
    { r with dlBalance := satBalance (r.dlBalance + ((estimate : Int) - actual)) }).zeroDlOutside i

/-- The true-up of an uplink invitee (R61, R102). -/
def State.trueUpUl (s : State) (i : Nat) (allotment actual : Nat) : State :=
  (s.modStation i fun r =>
    { r with ulBalance := satBalance (r.ulBalance + ((allotment : Int) - actual)) }).zeroUlOutside i

/-- A demand is written, saturating, and the uplink membership re-tested (R90, R94). -/
def State.setDemand (s : State) (i : Nat) (n : Nat) : State :=
  (s.modStation i fun r => { r with demand := clampDemand n }).retestUl i

/-! ### The Traffic Indication Set (R162, R163) -/

/-- The set test: add with an ADD, or remove with a REMOVE. The set is held in ascending order. -/
def State.retestTis (s : State) (i : Nat) : State :=
  let r := s.station i
  let member := (s.port r.port).tis.contains i
  if r.qualifiesTis then
    if member then s
    else (s.modPort r.port fun q => { q with tis := q.tis.orderedInsert (· ≤ ·) i }).sendTim r.port
      .add r.assoc
  else if member then
    (s.modPort r.port fun q => { q with tis := q.tis.filter (· != i) }).sendTim r.port
      .remove r.assoc
  else s

/-- The whole set sent at START_PORT: a CLEAR, then an ADD for each member in ascending order of
association number (R164). -/
def State.resendTis (s : State) (p : PortNo) : State :=
  let numbers := ((s.port p).tis.map fun i => (s.station i).assoc).insertionSort (· ≤ ·)
  numbers.foldl (fun s a => s.send p (.timUpdate .add a)) (s.send p (.timUpdate .clear 0))

/-! ### Queue events (R30) -/

/-- The events of one slot's leaving tier `t` of station `i`, by the counts it has left: the
expedited event first. -/
def State.goneEvents (s : State) (i : Nat) (t : Tier) (zero : Bool) : State :=
  let r := s.station i
  let s1 := if t = .expedited ∧ r.expFifo = [] then s.retestExp i else s
  if r.queuedCount = 0 then (s1.retestMain i zero).retestTis i else s1

/-- The events of one slot's joining tier `t` of station `i`. -/
def State.presentEvents (s : State) (i : Nat) (t : Tier) : State :=
  let r := s.station i
  let s1 := if t = .expedited ∧ r.expFifo.length = 1 then s.retestExp i else s
  if r.queuedCount = 1 then (s1.retestMain i true).retestTis i else s1

/-! ### Slot transitions (R22) -/

/-- The slot is DONE with this status; its station's holding falls and its unreported count rises. -/
def State.markDone (s : State) (i : Nat) (k : Nat) (st : CompletionStatus) : State :=
  (s.modSlot k fun v => { v with state := .done, status := st }).modStation i
    fun r => { r with holding := r.holding - 1, unreported := r.unreported + 1 }

/-- The head of a tier leaves it. -/
def State.popHead (s : State) (i : Nat) (t : Tier) : State :=
  s.modStation i fun r => r.setFifo t (r.fifo t).tail

/-- The head slot `k` of a tier ends QUEUED: EXPIRED (R36) or FLUSHED (R33). -/
def State.endQueued (s : State) (i : Nat) (t : Tier) (k : Nat) (st : CompletionStatus)
    (zero : Bool) : State :=
  (((s.popHead i t).markDone i k st).goneEvents i t zero).joinDone k

/-- A slot of an ended grant goes from IN_FLIGHT to DONE (R40). -/
def State.endInFlight (s : State) (i : Nat) (k : Nat) (st : CompletionStatus) : State :=
  (s.markDone i k st).joinDone k

/-- A slot of a grant that its port's loss or restart ends is LOST. The test of R147 waits until the
LOST or RESTARTED notice is placed (R110, R126, assumption 18). -/
def State.loseSlot (s : State) (i : Nat) (k : Nat) : State := (s.markDone i k .lost).appendDone k

/-- Every slot of a tier is flushed, head to tail (R33). -/
def State.flushTier (s : State) (i : Nat) (t : Tier) : State :=
  ((s.station i).fifo t).foldl (fun s k => s.endQueued i t k .flushed true) s

/-- An UNSENT slot goes back to its tier, behind the `pos` slots the same outcome has already put back
(R39, R137). -/
def State.returnSlot (s : State) (i : Nat) (t : Tier) (pos : Nat) (k : Nat) : State :=
  ((s.modSlot k fun v => { v with state := .queued }).modStation i fun r =>
    r.setFifo t ((r.fifo t).take pos ++ k :: (r.fifo t).drop pos)).presentEvents i t

/-- The head slot `k` of a tier joins the take in hand (R37 step 3). -/
def State.takeHead (s : State) (i : Nat) (t : Tier) (k : Nat) : State :=
  ((s.popHead i t).modSlot k fun v => { v with state := .inFlight }).goneEvents i t false

/-- The heads of a tier past their lifetime are expired until one is not (R36, R165). -/
def State.expireHeads : Nat → Nat → Tier → State → State
  | 0, _, _, s => s
  | n + 1, i, t, s =>
    match (s.station i).fifo t with
    | [] => s
    | k :: _ =>
      if s.pastLifetime (s.slot k) then
        State.expireHeads n i t (s.endQueued i t k .expired true)
      else s

/-- The sweep of one dozing station (R165). -/
def State.sweepStation (s : State) (i : Nat) : State :=
  let s1 := State.expireHeads (s.station i).expFifo.length i .expedited s
  State.expireHeads (s1.station i).stdFifo.length i .standard s1

/-- The epoch sweep of a port: its dozing stations in ascending order (R165). -/
def State.sweep (s : State) (p : PortNo) : State :=
  (s.bound.filter fun i => (s.station i).port == p && (s.station i).ps == .doze).foldl
    State.sweepStation s

/-! ### Power save (chapter 8) -/

/-- The end-of-service flag of the station's DL entry is cleared (R158, last paragraph). -/
def State.clearEos (s : State) (i : Nat) : State :=
  s.modPort (s.portOfStation i) fun q => { q with inFlight := q.inFlight.map (·.withEos i false) }

/-- A change of PS state and the three memberships it re-tests (R65, R94). A station that leaves
SERVICE with a grant in flight has that grant's end-of-service flag cleared. -/
def State.setPs (s : State) (i : Nat) (ps : PsState) (allowance : Nat) (deadline : Word) : State :=
  let s0 := if (s.station i).ps = .service ∧ ps ≠ .service then s.clearEos i else s
  let s1 := s0.modStation i fun r => { r with ps, allowance, deadline }
  ((s1.retestMain i true).retestExp i).retestUl i

/-- A REVOKE is sent for the station's DL grant, once (R127). -/
def State.revoke (s : State) (i : Nat) : State :=
  let p := s.portOfStation i
  match (s.port p).inFlight.find? (·.isDlOf i) with
  | some ⟨number, _, _, .dl _ _ _ _ _ false⟩ =>
    (s.modPort p fun q => { q with inFlight := q.inFlight.map (·.withRevoke i) }).send p
      (.revoke number)
  | _ => s

/-- The run-dry test (R160). -/
def State.runDry (s : State) (i : Nat) : State :=
  let r := s.station i
  if r.ps = .service ∧ r.queuedCount = 0 ∧ r.dlInFlight = false then
    ((s.setPs i .doze 0 0).retestTis i).sendServiceEmpty i
  else s

/-- The hand-off at the end of a downlink grant (R158). -/
def State.handOff (s : State) (i : Nat) (endOfService : Bool) : State :=
  if (s.station i).ps = .service then
    if endOfService then (s.setPs i .doze 0 0).retestTis i else s.runDry i
  else s

/-- After the grants of a lost or restarted port are ended, its stations still in SERVICE doze, with
no record sent for the change (R161). -/
def State.endServices (s : State) (p : PortNo) : State :=
  (s.bound.filter fun i => (s.station i).port == p && (s.station i).ps == .service).foldl
    (fun s i => (s.setPs i .doze 0 0).retestTis i) s

/-! ### The end of a grant (section 6.8) -/

/-- The settlement for an end by timeout (R122): the slots are LOST, the charges stand. -/
def State.settleLost (s : State) (e : InFlight) : State :=
  match e.work with
  | .dl station _ slots .. => slots.foldl (fun s k => s.endInFlight station k .lost) s
  | .ul .. => s

/-- The settlement for an end that goes with the loss or restart of the port (R122). -/
def State.loseSlots (s : State) (e : InFlight) : State :=
  match e.work with
  | .dl station _ slots .. => slots.foldl (fun s k => s.loseSlot station k) s
  | .ul .. => s

/-- Steps 1 to 4 of R123: the entry goes, the in-flight flags clear, a DL entry's end-of-service flag
is handed off, departure completion is tested. -/
def State.endEntry (s : State) (p : PortNo) (e : InFlight) : State :=
  let s1 := s.modPort p fun q =>
    { q with inFlight := q.inFlight.filter (fun x => x.number != e.number) }
  match e.work with
  | .dl station _ _ _ eos _ =>
    ((s1.modStation station fun r => { r with dlInFlight := false }).handOff station
      eos).testDeparture station
  | .ul invitations _ =>
    let stations := invitations.map Invitation.station
    let s2 := stations.foldl
      (fun s i => s.modStation i fun r => { r with ulInFlight := false }) s1
    stations.foldl State.testDeparture s2

/-- Every entry of the table is ended as LOST, in issue order (R110 step 1, R126 step 1). -/
def State.endAllLost (s : State) (p : PortNo) : State :=
  (s.port p).inFlight.foldl (fun s e => (s.loseSlots e).endEntry p e) s

/-- The hold is cleared without a notice (R110 step 2, R126 step 2). -/
def Port.clearHold (q : Port) : Port :=
  { q with hold := false, holdReason := .none, holdTimer := none }

/-- The port enters STOPPED or ABSENT: epoch timer stopped, resume timer disarmed, suspension reason
none (R82, R85, R114). -/
def Port.rest (q : Port) (st : PortState) : Port :=
  { q with state := st, epochTimer := none, resumeTimer := none, suspendReason := .none }

/-- A port loss (R126). The COMPLETION notices of its slots follow the LOST notice. -/
def State.losePort (s : State) (p : PortNo) : State :=
  (((((s.endAllLost p).endServices p).modPort p fun q =>
    { (q.clearHold.rest .absent) with
      consecutiveTimeouts := 0, portLosses := satCount q.portLosses })).placeNotice
    (.portEvent p .lost .none)).testCompletion

/-- A radio restart (R110). The COMPLETION notices of its slots follow the RESTARTED notice. -/
def State.restartRadio (s : State) (p : PortNo) (depth : Nat) : State :=
  (((((s.endAllLost p).endServices p).modPort p fun q =>
    { (q.clearHold.rest .stopped) with
      consecutiveTimeouts := 0, radioRestarts := satCount q.radioRestarts, depth })).placeNotice
    (.portEvent p .restarted .none)).testCompletion

/-- A record that arrived on a Radio Link is discarded and counted (R183). -/
def State.countDiscard (s : State) (p : PortNo) : State :=
  s.modPort p fun q => { q with discarded := satCount q.discarded }

end Sys2Proof.Machine
end

