-- ==== Sys2Proof/Machine/Scheduler.lean ====
section
/-! DEFINITION. The take (R37), the issue of grants and windows (R100, R118, R119, R157), the decision
at an opportunity (section 4.4), collection (section 5.4), and the steps that follow an opportunity or
the end of a grant (R116, R123 step 5). -/

namespace Sys2Proof.Machine

/-! ### Taking frames (R37, R53 to R55) -/

/-- What a take hands the Scheduler: the state, the slots taken, their estimate, and whether the take
sent frames-gone (read by R160). -/
structure TakeResult where
  state    : State
  slots    : List Nat
  estimate : Nat
  gone     : Bool

/-- The Estimator's figures a take holds until it ends (R53). -/
structure TakeTerms where
  rate  : RateEntry
  trim  : Int
  cap   : Nat
  limit : Nat

def State.takeTerms (s : State) (i : Nat) : TakeTerms :=
  let r := s.station i
  let q := s.port r.port
  ⟨q.effectiveRate r, q.params.trim, q.params.airtimeCap, sizeLimit q s.monitor r⟩

/-- The candidate steps of a take (R37): `slots` and `lengths` are the frames taken so far. Each step
removes the head, so the FIFO's length bounds the recursion. -/
def takeLoop : Nat → Nat → Tier → TakeTerms → List Nat → List Nat → State → TakeResult
  | 0, _, _, terms, slots, lengths, s =>
    ⟨s, slots, dlEstimate terms.rate terms.trim lengths, false⟩
  | n + 1, i, t, terms, slots, lengths, s =>
    let stop : TakeResult := ⟨s, slots, dlEstimate terms.rate terms.trim lengths, false⟩
    match (s.station i).fifo t with
    | [] => stop
    | k :: _ =>
      let v := s.slot k
      if s.pastLifetime v then
        takeLoop n i t terms slots lengths (s.endQueued i t k .expired false)
      else match ruleOn terms.rate terms.trim terms.cap terms.limit lengths v.length v.solo with
        | .refused => stop
        | .accepted closed =>
          let s1 := s.takeHead i t k
          let lengths1 := lengths ++ [v.length]
          if closed then
            ⟨s1, slots ++ [k], dlEstimate terms.rate terms.trim lengths1, false⟩
          else takeLoop n i t terms (slots ++ [k]) lengths1 s1

/-- A take from one tier of a station. It sent frames-gone when it found QUEUED frames and left
none. -/
def State.takeTier (s : State) (i : Nat) (t : Tier) : TakeResult :=
  let r := takeLoop ((s.station i).fifo t).length i t (s.takeTerms i) [] [] s
  { r with gone := decide (0 < (s.station i).queuedCount ∧ (r.state.station i).queuedCount = 0) }

/-! ### Issue -/

/-- The first of `n`, `n + 1`, … that no live entry holds (R118). -/
def freeNumber : Nat → List Byte → Byte → Byte
  | 0, _, n => n
  | k + 1, live, n => if live.contains n then freeNumber k live (n + 1) else n

def Port.numberToGive (q : Port) : Byte :=
  freeNumber q.inFlight.length (q.inFlight.map InFlight.number) q.nextNumber

/-- An entry joins the tail of the table under its number, and the next grant number moves past it
(R118, R119 step 2). -/
def State.recordEntry (s : State) (p : PortNo) (work : GrantWork) : State :=
  s.modPort p fun q =>
    { q with
      inFlight := q.inFlight ++
        [InFlight.mk q.numberToGive s.clock.ms
          (s.clock.ms + BitVec.ofNat 32 q.params.grantTimeout) work]
      nextNumber := q.numberToGive + 1 }

/-- The allowance a grant of `n` frames leaves, and its end-of-service flag (R157). -/
def State.settleAllowance (s : State) (i : Nat) (n : Nat) : State × Bool :=
  let r := s.station i
  if r.ps = .service then
    (s.setStation i { r with allowance := r.allowance - n },
      decide (r.allowance - n = 0 ∨ r.queuedCount = 0))
  else (s, false)

/-- The charge of R60, R69. -/
def State.chargeDl (s : State) (i : Nat) (estimate : Nat) : State :=
  s.modStation i fun r => { r with dlBalance := satBalance (r.dlBalance - estimate) }

def State.chargeUl (s : State) (i : Nat) (allotment : Nat) : State :=
  s.modStation i fun r => { r with ulBalance := satBalance (r.ulBalance - allotment) }

/-- A non-empty take is numbered, recorded and sent as a GRANT (R119), and counted (R78). The charge is
made before. -/
def State.issueDl (s : State) (p : PortNo) (i : Nat) (t : Tier) (slots : List Nat)
    (estimate : Nat) : State :=
  let (s1, eos) := s.settleAllowance i slots.length
  let number := (s1.port p).numberToGive
  let frames := slots.map fun k => ((s1.slot k).handle, (s1.slot k).length)
  let s2 := s1.recordEntry p (.dl i t slots estimate eos false)
  let s3 := s2.modStation i fun r => { r with dlInFlight := true }
  let s4 := s3.send p (.grant number (s3.station i).assoc t eos estimate frames)
  s4.modPort p fun q => { q with sinceUplink := min 15 (q.sinceUplink + 1) }

/-! ### The steps of a decision (section 4.4) -/

/-- Where a step of a decision leaves off: the state, whether something was issued, how many more
examinations the decision may make (64 less e), and the stations whose takes sent frames-gone. -/
structure Progress where
  state  : State
  issued : Bool
  left   : Nat
  gone   : List Nat

/-- The first station of a list with no downlink grant in flight. -/
def State.firstIdle (s : State) (l : List Nat) : Option Nat :=
  l.find? fun i => !(s.station i).dlInFlight

/-- A take of the expedited step that yields frames is charged, taken off the budget and issued; the
station goes to the tail of the expedited rotation if it is still a member (R73). -/
def State.serveExpedited (s : State) (p : PortNo) (i : Nat) (slots : List Nat) (estimate : Nat) :
    State :=
  let s1 := (s.chargeDl i estimate).modPort p fun q => { q with budget := q.budget - estimate }
  let s2 := (s1.issueDl p i .expedited slots estimate).zeroDlOutside i
  if (s2.port p).expRot.contains i then
    s2.modPort p fun q => { q with expRot := toTail i q.expRot }
  else s2

/-- The expedited step (R73, R74): the fuel is 64 less e. -/
def expeditedStep : Nat → PortNo → List Nat → State → Progress
  | 0, _, gone, s => ⟨s, false, 0, gone⟩
  | n + 1, p, gone, s =>
    match s.firstIdle (s.port p).expRot with
    | none => ⟨s, false, n + 1, gone⟩
    | some i =>
      let r := s.takeTier i .expedited
      let gone1 := if r.gone then gone ++ [i] else gone
      if r.slots.isEmpty then
        expeditedStep n p gone1 (r.state.zeroDlOutside i)
      else
        ⟨r.state.serveExpedited p i r.slots r.estimate, true, n + 1, gone1⟩

/-- A main-rotation member is credited its DL quantum (R68). -/
def State.creditMain (s : State) (i : Nat) : State :=
  let r := s.station i
  let c := quantum (s.port r.port).params.dlQuantum (s.weight r.cls) s.monitor r.health
  s.setStation i { r with dlBalance := satBalance (r.dlBalance + c), mainCredited := true }

/-- The credit of an examination: an uncredited member is credited, a credited one is not (R68,
R76 step 2). -/
def State.creditedMain (s : State) (i : Nat) : State :=
  if (s.station i).mainCredited then s else s.creditMain i

/-- The station goes to the tail of the main rotation, uncredited (R76 step 3, R77). -/
def State.tailMain (s : State) (p : PortNo) (i : Nat) : State :=
  (s.modPort p fun q => { q with mainRot := toTail i q.mainRot }).modStation i
    fun r => { r with mainCredited := false }

/-- The take or takes of an examination (R76 step 4): EXPEDITED first, and STANDARD after an EXPEDITED
take that yields nothing. -/
def State.takeForMain (s : State) (i : Nat) : TakeResult × Tier :=
  if (s.station i).expFifo.isEmpty then (s.takeTier i .standard, .standard)
  else
    let r := s.takeTier i .expedited
    if r.slots.isEmpty && !(r.state.station i).stdFifo.isEmpty then
      let r2 := r.state.takeTier i .standard
      ({ r2 with gone := r.gone || r2.gone }, .standard)
    else (r, .expedited)

/-- A take of an examination that yields frames is charged and issued; a member left at or below 0 goes
to the tail (R77). -/
def State.serveMain (s : State) (p : PortNo) (i : Nat) (t : Tier) (slots : List Nat)
    (estimate : Nat) : State :=
  let s1 := ((s.chargeDl i estimate).issueDl p i t slots estimate).zeroDlOutside i
  if (s1.port p).mainRot.contains i ∧ (s1.station i).dlBalance ≤ 0 then s1.tailMain p i else s1

/-- The main-rotation step (R76, R77): the fuel is 64 less e, `pos` is p. -/
def mainStep : Nat → PortNo → Nat → List Nat → State → Progress
  | 0, _, _, gone, s => ⟨s, false, 0, gone⟩
  | n + 1, p, pos, gone, s =>
    match (s.port p).mainRot[pos]? with
    | none => ⟨s, false, n + 1, gone⟩
    | some i =>
      if (s.station i).dlInFlight then mainStep n p (pos + 1) gone s
      else
        let s1 := s.creditedMain i
        if (s1.station i).dlBalance ≤ 0 then mainStep n p pos gone (s1.tailMain p i)
        else
          let r := (s1.takeForMain i).1
          let gone1 := if r.gone then gone ++ [i] else gone
          if r.slots.isEmpty then mainStep n p pos gone1 (r.state.zeroDlOutside i)
          else
            ⟨r.state.serveMain p i (s1.takeForMain i).2 r.slots r.estimate, true, n + 1, gone1⟩

/-! ### Uplink windows (sections 5.4, 5.5) -/

/-- An uplink-rotation member is credited its UL quantum (R96). -/
def State.creditUl (s : State) (i : Nat) : State :=
  let r := s.station i
  let c := quantum (s.port r.port).params.ulQuantum (s.weight r.cls) s.monitor r.health
  s.setStation i { r with ulBalance := satBalance (r.ulBalance + c), ulCredited := true }

/-- The credit of an examination of collection (R96, R97 step 2). -/
def State.creditedUl (s : State) (i : Nat) : State :=
  if (s.station i).ulCredited then s else s.creditUl i

/-- The station goes to the tail of the uplink rotation, uncredited (R97 step 3, R100 step 3). -/
def State.tailUl (s : State) (p : PortNo) (i : Nat) : State :=
  (s.modPort p fun q => { q with ulRot := toTail i q.ulRot }).modStation i
    fun r => { r with ulCredited := false }

/-- The allotment of station `i` of port `p` at this moment (R56, R97 step 4). -/
def State.allotment (s : State) (p : PortNo) (i : Nat) : Nat :=
  let q := s.port p
  ulAllotment (q.effectiveRate (s.station i)) q.params.trim q.params.windowLength
    (s.station i).demand

/-- Collection (R97 to R99): the fuel is 64 less u. It answers the state, the invitation list and the
window total. -/
def collect : Nat → PortNo → Nat → List Invitation → Nat → State → State × List Invitation × Nat
  | 0, _, _, invited, total, s => (s, invited, total)
  | n + 1, p, pos, invited, total, s =>
    if (s.port p).params.ulMax ≤ invited.length then (s, invited, total)
    else match (s.port p).ulRot[pos]? with
      | none => (s, invited, total)
      | some i =>
        if (s.station i).ulInFlight then collect n p (pos + 1) invited total s
        else
          let s1 := s.creditedUl i
          if (s1.station i).ulBalance ≤ 0 then collect n p pos invited total (s1.tailUl p i)
          else
            let a := s1.allotment p i
            if invited = [] ∨ total + a ≤ (s1.port p).params.windowLength then
              collect n p (pos + 1) (invited ++ [⟨i, a⟩]) (total + a) s1
            else (s1, invited, total)

/-- A formed window is issued (R100). -/
def State.issueUl (s : State) (p : PortNo) (invited : List Invitation) (total : Nat) : State :=
  let number := (s.port p).numberToGive
  let s1 := s.recordEntry p (.ul invited total)
  let s2 := invited.foldl
    (fun s v => s.modStation v.station fun r => { r with ulInFlight := true }) s1
  let s3 := s2.send p (.ulWindow number total
    (invited.map fun v => ((s2.station v.station).assoc, v.allotment)))
  let s4 := invited.foldl (fun s v => s.chargeUl v.station v.allotment) s3
  let s5 := invited.foldl
    (fun s v => if (s.station v.station).ulBalance ≤ 0 then s.tailUl p v.station else s) s4
  s5.modPort p fun q => { q with sinceUplink := 0 }

/-- A window is asked for (R75, R79). -/
def askWindow (p : PortNo) (left : Nat) (gone : List Nat) (s : State) : Progress :=
  let (s1, invited, total) := collect 64 p 0 [] 0 s
  if invited.isEmpty then ⟨s1, false, left, gone⟩ else ⟨s1.issueUl p invited total, true, left, gone⟩

/-! ### The decision -/

/-- The port is SUSPENDED with a reason; an examination limit arms the resume timer for 1 ms (R80,
R82). -/
def State.suspend (s : State) (p : PortNo) (reason : SuspendReason) : State :=
  s.modPort p fun q =>
    { q with state := .suspended, suspendReason := reason,
             resumeTimer := if reason = .examinationLimit then some 1000 else none }

/-- The run-dry tests that wait for the end of a decision (R160). -/
def State.runDryAll (s : State) (gone : List Nat) : State := gone.foldl State.runDry s

/-- One decision of a port (R71 to R80). -/
def State.decision (s : State) (p : PortNo) : State :=
  if !(s.port p).hasRates then s.suspend p .noRates
  else
    let d1 := if 0 < (s.port p).budget then expeditedStep 64 p [] s else ⟨s, false, 64, []⟩
    if d1.issued then d1.state.runDryAll d1.gone
    else
      let q := d1.state.port p
      let turn := decide (0 < q.params.ulRatio ∧ q.params.ulRatio ≤ q.sinceUplink) &&
        !q.ulRot.isEmpty
      let d2 := if turn then askWindow p d1.left d1.gone d1.state else d1
      if d2.issued then d2.state.runDryAll d2.gone
      else
        let d3 := mainStep d2.left p 0 d2.gone d2.state
        if d3.issued then d3.state.runDryAll d3.gone
        else
          let q3 := d3.state.port p
          let fallback := decide (0 < q3.params.ulRatio) && !q3.ulRot.isEmpty && !turn
          let d4 := if fallback then askWindow p d3.left d3.gone d3.state else d3
          if d4.issued then d4.state.runDryAll d4.gone
          else (d4.state.suspend p
            (if d4.left = 0 then .examinationLimit else .idle)).runDryAll d4.gone

/-- Decisions follow one another while the port has an opportunity (R116): each ends in an issue,
which takes a place of the table, or in a suspension. -/
def opportunityLoop : Nat → PortNo → State → State
  | 0, _, s => s
  | n + 1, p, s =>
    if (s.port p).hasOpportunity then opportunityLoop n p (s.decision p) else s

/-- The Grant Engine asks for decisions if the port has an opportunity. -/
def State.opportunity (s : State) (p : PortNo) : State :=
  opportunityLoop ((s.port p).depth - (s.port p).inFlight.length) p s

/-- A drain completes (R115). -/
def State.completeDrain (s : State) (p : PortNo) : State :=
  (s.modPort p fun q => q.rest .stopped).placeNotice (.portEvent p .stopped .none)

/-- Step 5 of R123: a drain may complete, a suspended port is woken, and an opportunity may follow. The decision
of a port that an earlier effect of the same command has woken comes here too: R144 has it so for an OUTCOME,
and for a UL_OUTCOME it is the model's choice (DESIGN CHOICE, unsafe: assumption 32). -/
def State.considerPort (s : State) (p : PortNo) : State :=
  if (s.port p).state = .draining ∧ (s.port p).inFlight = [] then s.completeDrain p
  else (s.wake p).opportunity p

end Sys2Proof.Machine
end

