-- ==== Sys2Proof/Machine/Wire.lean ====
section
/-! DEFINITION. The records the part sends, as bytes: replies (R181), notices (R182) and the radio
records (R120), in the layouts of section 10.5, and the bytes of them that the host clocks out (R180). Bits of
a flags byte that no layout names are free (assumption 6); the other bits of a notice's flags byte are 0. A
field wider than its bytes is cut to its low bytes; the ranges of the manual keep every field within its
bytes. -/

namespace Sys2Proof.Machine

/-! ### Codes of section 10.5 and R181 -/

def ReplyCode.byte : ReplyCode → Byte
  | .ok => 0 | .partialAccepted => 1 | .badType => 2 | .badRecord => 3 | .badStation => 4
  | .notVacant => 5 | .notAdmitted => 6 | .duplicateAssoc => 7 | .portAbsent => 8
  | .portState => 9 | .noRates => 10 | .departing => 11 | .poolEmpty => 12 | .queueFull => 13
  | .badFrameLength => 14 | .notReady => 15

def StationState.byte : StationState → Byte
  | .vacant => 0 | .active => 1 | .departing => 2

def PsState.byte : PsState → Byte
  | .awake => 0 | .doze => 1 | .service => 2

def Health.byte : Health → Byte
  | .healthy => 0 | .degraded => 1

def PortState.byte : PortState → Byte
  | .absent => 0 | .stopped => 1 | .running => 2 | .suspended => 3 | .draining => 4

def HoldReason.byte : HoldReason → Byte
  | .none => 0 | .channelChange => 1 | .beaconPrep => 2 | .calibration => 3 | .other => 4

def SuspendReason.byte : SuspendReason → Byte
  | .none => 0 | .idle => 1 | .examinationLimit => 2 | .noRates => 3

def CoalTimer.byte : CoalTimer → Byte
  | .stopped => 0 | .running => 1 | .expired => 2

def PortEventKind.byte : PortEventKind → Byte
  | .present => 0 | .restarted => 1 | .lost => 2 | .stopped => 3 | .holdBegin => 4
  | .holdEnd => 5 | .stalled => 6

def TimKind.byte : TimKind → Byte
  | .clear => 0 | .add => 1 | .remove => 2

def CompletionStatus.byte : CompletionStatus → Byte
  | .delivered => 0 | .failed => 1 | .expired => 2 | .flushed => 3 | .lost => 4

def ResetCause.byte : ResetCause → Byte
  | .resetN => 0 | .resetPart => 1

def portByte : PortNo → Byte
  | .zero => 0 | .one => 1

/-- A balance in two bytes, two's complement. -/
def balanceBytes (x : Int) : List Byte := toLe 2 (BitVec.ofInt 16 x).toNat

/-- A flags byte: the named flags from bit 0 up, and free bits above them (assumption 6). -/
def flagsByte (which : Nat) (named : List Bool) : Byte :=
  let value := named.foldr (fun b acc => 2 * acc + (if b then 1 else 0)) 0
  BitVec.ofNat 8 value ||| (Config.unnamedFlags which <<< named.length)

/-! ### Replies (R181) -/

def StationReport.bytes (r : StationReport) : List Byte :=
  toLe 2 r.station ++ [r.state.byte, portByte r.port] ++ toLe 2 r.assoc ++ toLe 1 r.cls ++
    toLe 1 r.rateMode ++ toLe 1 r.rateCode ++ toLe 1 r.effectiveCode ++ toLe 2 r.queueCap ++
    toLe 1 r.frameLimit ++ toLe 2 r.holding ++ toLe 2 r.unreported ++ toLe 2 r.expCount ++
    toLe 2 r.stdCount ++ balanceBytes r.dlBalance ++ balanceBytes r.ulBalance ++
    [flagsByte 1 [r.mainCredited, r.ulCredited, r.inMain, r.inExpedited, r.inUplink,
      r.dlInFlight, r.ulInFlight]] ++
    toLe 3 r.demand ++ [r.ps.byte] ++ toLe 1 r.allowance ++ toLe 2 r.timeToDeadline ++
    [r.health.byte] ++ toLe 1 r.attempts ++ toLe 1 r.failures ++ toLe 1 r.degradedWindows ++
    toLe 4 r.airDl.toNat ++ toLe 4 r.airUl.toNat

def EntryReport.bytes (e : EntryReport) : List Byte :=
  [e.number, boolByte e.isUplink] ++ toLe 1 e.timeLeft

/-- Four entry records: the live ones in issue order, the rest 0. -/
def entryRecords (es : List EntryReport) : List Byte :=
  (es.flatMap EntryReport.bytes ++ List.replicate 12 0).take 12

/-- The port block: 80 bytes. -/
def PortReport.bytes (r : PortReport) : List Byte :=
  [r.state.byte, flagsByte 3 [r.hold, r.resumeArmed], r.holdReason.byte] ++
    toLe 2 r.holdTimeLeft ++ toLe 1 r.depth ++ toLe 1 r.inFlightCount ++ entryRecords r.entries ++
    [r.nextNumber] ++ toLe 1 r.consecutiveTimeouts ++ toLe 2 r.grantTimeouts ++
    toLe 2 r.unmatchedOutcomes ++ toLe 2 r.portLosses ++ toLe 2 r.radioRestarts ++
    toLe 2 r.holdStalls ++ encodeParams r.params ++ toLe 2 r.resultAnomalies ++
    toLe 2 r.rateIgnored ++ toLe 2 r.mainCount ++ toLe 2 r.expCount ++ toLe 2 r.ulCount ++
    toLe 2 r.mainHead ++ toLe 4 r.budget ++ toLe 4 r.fullBudget ++ toLe 1 r.sinceUplink ++
    toLe 2 r.epochTimeLeft ++ [r.suspendReason.byte] ++ toLe 2 r.tisCount ++
    toLe 2 r.dozeCount ++ toLe 2 r.serviceCount

def StatusReport.bytes (r : StatusReport) : List Byte :=
  [flagsByte 2 [r.initializing, r.lossPending]] ++ toLe 2 r.controlBadFrames ++
    toLe 2 r.overruns ++ toLe 2 r.badFrames0 ++ toLe 2 r.discarded0 ++ toLe 2 r.badFrames1 ++
    toLe 2 r.discarded1 ++ toLe 1 r.inboundCount ++ toLe 1 r.noticeCount ++ toLe 2 r.freeCount ++
    toLe 2 r.queuedCount ++ toLe 2 r.inFlightCount ++ toLe 2 r.doneCount ++
    encodeLifetimes r.lifetimes ++ toLe 2 r.doneLength ++ toLe 1 r.completionCount ++
    [r.coalTimer.byte] ++ encodeMonitor r.monitor ++ encodeWeights r.weights ++ r.port0.bytes ++
    r.port1.bytes

/-- What follows the status code. -/
def ReplyFields.bytes : ReplyFields → List Byte
  | .nothing => []
  | .params q => encodeParams q
  | .enabledCodes n => toLe 1 n
  | .weights ws => encodeWeights ws
  | .monitor m => encodeMonitor m
  | .lifetimes l => encodeLifetimes l
  | .portState st => [st.byte]
  | .queueCap n => toLe 2 n
  | .enqueue n c => toLe 1 n ++ [c.byte]
  | .flushed n => toLe 2 n
  | .station r => r.bytes
  | .status r => r.bytes

/-- A reply as a record: its body begins with the status code. -/
def Reply.record (r : Reply) : Record := ⟨r.type, r.tag, r.code.byte :: r.fields.bytes⟩

/-! ### Notices (R182): tag 0, the flags byte first -/

def CompletionEntry.bytes (e : CompletionEntry) : List Byte :=
  toLe 4 e.handle.toNat ++ toLe 2 e.station ++ [e.status.byte]

def NoticeBody.type : NoticeBody → Byte
  | .completion _ => 0xC0
  | .departDone _ => 0xC1
  | .stationHealth .. => 0xC2
  | .portEvent .. => 0xC3
  | .ready _ => 0xC4

def NoticeBody.bytes : NoticeBody → List Byte
  | .completion es => toLe 1 es.length ++ es.flatMap CompletionEntry.bytes
  | .departDone i => toLe 2 i
  | .stationHealth i h n => toLe 2 i ++ [h.byte] ++ toLe 1 n
  | .portEvent p k r => [portByte p, k.byte, r.byte]
  | .ready c => [c.byte]

def Notice.record (n : Notice) : Record :=
  ⟨n.body.type, 0, boolByte n.lostBefore :: n.body.bytes⟩

/-- The record the Control Link is sending, or sends next (R180). -/
def ControlLink.recordOut (c : ControlLink) : Option Record :=
  match c.turn with
  | some .reply => c.reply.map Reply.record
  | some .notice => c.notices.head?.map Notice.record
  | none => none

/-- Its frame, whole (R176). -/
def ControlLink.frameOut (c : ControlLink) : List Byte :=
  match c.recordOut with
  | some r => frameBytes r
  | none => []

/-- How many bytes of it have been clocked out. -/
def ControlLink.bytesGone (c : ControlLink) : Nat :=
  match c.sending with
  | some x => x.gone
  | none => 0

/-- The byte the part puts on MISO for the next byte the host clocks: the next of the record being sent,
0x00 while nothing waits (R180). -/
def ControlLink.misoByte (c : ControlLink) : Byte := c.frameOut.getD c.bytesGone 0

/-- What is in course of sending once the host has clocked `n` more bytes, whatever inbound frame they belong
to (R180): the record that is being sent, or with none the one whose turn it is, with that many more bytes
gone. Its last byte goes with REPLY_SENT or NOTICE_SENT. -/
def ControlLink.sendingAfter (c : ControlLink) (n : Nat) : Option Sending :=
  match c.turn with
  | none => c.sending
  | some what =>
    if n = 0 then c.sending
    else some ⟨what, min (c.bytesGone + n) (c.frameOut.length - 1)⟩

/-- `n` bytes are clocked on the Control Link (R180). -/
def ControlLink.clockOut (c : ControlLink) (n : Nat) : ControlLink :=
  { c with sending := c.sendingAfter n }

/-! ### Records to a radio (R120): tag 0 -/

def RadioRecord.type : RadioRecord → Byte
  | .announce _ => 0x40
  | .grant .. => 0x41
  | .ulWindow .. => 0x42
  | .revoke _ => 0x43
  | .timUpdate .. => 0x44
  | .serviceEmpty _ => 0x45

def RadioRecord.bytes : RadioRecord → List Byte
  | .announce p => [portByte p]
  | .grant number assoc tier eos estimate frames =>
    [number] ++ toLe 2 assoc ++ [tierByte tier, flagsByte 0 [eos]] ++ toLe 2 estimate ++
      toLe 1 frames.length ++ frames.flatMap fun f => toLe 4 f.1.toNat ++ toLe 2 f.2
  | .ulWindow number total invitations =>
    [number] ++ toLe 2 total ++ toLe 1 invitations.length ++
      invitations.flatMap fun v => toLe 2 v.1 ++ toLe 2 v.2
  | .revoke number => [number]
  | .timUpdate kind assoc => [kind.byte] ++ toLe 2 assoc
  | .serviceEmpty assoc => toLe 2 assoc

def RadioRecord.record (r : RadioRecord) : Record := ⟨r.type, 0, r.bytes⟩

end Sys2Proof.Machine
end

