-- ==== Sys2Proof/Machine/ControlLink.lean ====
section
/-! DEFINITION. The Control Link's commands (R177 to R182) and the handling of the head record
(R179): a request is taken when it stands at the head of the inbound queue and no reply waits. -/

namespace Sys2Proof.Machine

/-! ### Bytes clocked (R180)

Every byte the host clocks in carries one out, whether it belongs to a frame or not. A command that ends a
frame on the Control Link stands for the bytes of it clocked since the last microsecond: its last byte at
least, and at most all of them (assumption 8). -/

/-- `n` bytes are clocked on a link; only the Control Link's carry bytes out. -/
def State.clockBytes (s : State) (n : Nat) : Link → State
  | .control => s.modCli fun c => c.clockOut n
  | .radio _ => s

/-- How many bytes of an inbound frame of `bytes` bytes the command that ends it clocks: 1 to `bytes`. -/
def State.frameBytesNow (s : State) (bytes : Nat) : Nat :=
  Config.frameBytesClocked s.freeIx s.pending.length % bytes + 1

/-- How many bytes of a frame that CS_N cuts were clocked since the last microsecond: CS_N carries none
itself, and the frame lacks at least the last of its 1031 bytes at most. -/
def State.cutBytesNow (s : State) : Nat := Config.frameBytesClocked s.freeIx s.pending.length % 1031

/-! ### Receivers (R177) -/

/-- The bad-frame count of a link rises by 1 and its receiver hunts anew (R177, R183). -/
def State.badFrame (s : State) : Link → State
  | .control => s.modCli fun c => { c with badFrames := satCount c.badFrames, huntCounted := false }
  | .radio p => s.modPort p fun q => { q with badFrames := satCount q.badFrames,
                                              huntCounted := false }

/-- A byte skipped while hunting: the first of a hunt counts, the rest do not (R177). -/
def State.skipByte (s : State) : Link → State
  | .control => s.modCli fun c =>
      if c.huntCounted then c else { c with badFrames := satCount c.badFrames, huntCounted := true }
  | .radio p => s.modPort p fun q =>
      if q.huntCounted then q else { q with badFrames := satCount q.badFrames, huntCounted := true }

/-- A taken frame ends the hunt (R177). -/
def State.frameTaken (s : State) : Link → State
  | .control => s.modCli fun c => { c with huntCounted := false }
  | .radio p => s.modPort p fun q => { q with huntCounted := false }

/-- A record joins the inbound queue, or is an overrun when 4 wait (R179). -/
def State.receive (s : State) (r : Record) : State :=
  if s.cli.inbound.length < 4 then s.modCli fun c => { c with inbound := c.inbound ++ [r] }
  else s.modCli fun c => { c with overruns := satCount c.overruns }

/-! ### Handling the head record (R179, R181, R186) -/

/-- The head record, if it is of this type and waits to be handled. -/
def State.headRequest (s : State) (type : Byte) : Option Record :=
  match s.cli.inbound with
  | [] => none
  | r :: _ => if s.cli.reply.isNone && r.type == type then some r else none

/-- What an owner answers: the state after the request, a status code and the fields after it. -/
structure Answer where
  state  : State
  code   : ReplyCode
  fields : ReplyFields

/-- A refusal changes no state and carries its code alone (R181). -/
def State.refuse (s : State) (c : ReplyCode) : Answer := ⟨s, c, .nothing⟩

/-- The reply is formed into the reply buffer. -/
def State.putReply (s : State) (type tag : Byte) (code : ReplyCode) (fields : ReplyFields) : State :=
  s.modCli fun c => { c with reply := some ⟨type, tag, code, fields⟩ }

/-- What NOT_READY carries: the ENQUEUE reply keeps its two fields (R186). -/
def notReadyFields (type : Byte) : ReplyFields :=
  if type = 0x20 then .enqueue 0 .notReady else .nothing

/-- The head record of a type is handed to its owner, or answered NOT_READY during initialization
(R186). Without such a record nothing is handled (assumption 1). -/
def State.handle (s : State) (type : Byte) (owner : List Byte → State → Answer) : State :=
  match s.headRequest type with
  | none => s
  | some r =>
    if s.init.active then s.putReply (r.type + 0x80) r.tag .notReady (notReadyFields type)
    else
      let a := owner r.body s
      a.state.putReply (r.type + 0x80) r.tag a.code a.fields

/-! ### The meanings -/

/-- CONTROL_FRAME_RECEIVED (R177, R178, R179). A frame that is not intact is discarded by R177. The frame's
bytes carry bytes out (R180). -/
def execControlFrameReceived (f : Frame) (s : State) : Host.Outcome State Fault Refusal :=
  let s1 := s.clockBytes (s.frameBytesNow f.bytesIn) .control
  .next (if f.intact then (s1.frameTaken .control).receive ⟨f.type, f.tag, f.body⟩
    else s1.badFrame .control)

/-- FRAME_DISCARDED (R177). A frame that is not damaged is not discarded. On the Control Link its bytes carry
bytes out (R180). -/
def execFrameDiscarded (l : Link) (d : Damage) (s : State) : Host.Outcome State Fault Refusal :=
  .next (if d.real then (s.clockBytes (s.frameBytesNow d.bytesIn) l).badFrame l else s)

/-- CS_N_RAISED_MID_FRAME (R177). The cut frame's bytes carry bytes out; a record partly clocked out goes on
at its next byte (R180). -/
def execCsNRaisedMidFrame (s : State) : Host.Outcome State Fault Refusal :=
  .next ((s.clockBytes s.cutBytesNow .control).badFrame .control)

/-- HUNT_BYTE_SKIPPED (R177). The sync byte is not skipped. A byte skipped on the Control Link carries a byte
out (R180). -/
def execHuntByteSkipped (l : Link) (b : Byte) (s : State) : Host.Outcome State Fault Refusal :=
  .next (if b = 0xA5 then s else (s.clockBytes 1 l).skipByte l)

/-- BAD_TYPE (R178): the head record's type names no request. -/
def execBadType (s : State) : Host.Outcome State Fault Refusal :=
  .next (match s.cli.inbound with
    | [] => s
    | r :: _ =>
      if s.cli.reply.isNone && !requestTypes.contains r.type then
        s.putReply 0xFF r.tag .badType .nothing
      else s)

/-- The head record leaves with the last byte of its reply (R179). -/
def State.popReply (s : State) : State :=
  s.modCli fun c => { c with inbound := c.inbound.tail, reply := none, sending := none }

/-- The oldest notice leaves with its last byte (R182), and the test of R147 is made. -/
def State.popNotice (s : State) : State :=
  (s.modCli fun c => { c with notices := c.notices.tail, sending := none }).testCompletion

/-- NOTICE_SENT (R180, R182): the oldest notice leaves when it is the notice's turn: no reply waits, or
the notice was already partly clocked out when the reply was formed. -/
def execNoticeSent (s : State) : Host.Outcome State Fault Refusal :=
  .next (if s.cli.noticeLeaves then s.popNotice else s)

end Sys2Proof.Machine
end

