-- ==== Sys2Proof/Machine/Settings.lean ====
section
/-! DEFINITION. The requests that set parameters and control ports: CONFIGURE_PORT, LOAD_RATES,
SET_WEIGHTS, SET_MONITOR, SET_LIFETIMES, START_PORT, STOP_PORT. -/

namespace Sys2Proof.Machine

/-- A decision follows when the command has returned a SUSPENDED port to RUNNING (R81, R116), after
the command's other effects (assumption 32). `before` is the port state before the command. -/
def State.decideIfWoken (s : State) (p : PortNo) (before : PortState) : State :=
  if before = .suspended ∧ (s.port p).state = .running then s.opportunity p else s

/-! ### CONFIGURE_PORT (R111, R112) -/

def ownConfigure (body : List Byte) (s : State) : Answer :=
  match parseConfigure body with
  | none => s.refuse .badRecord
  | some r =>
    match portOf r.port with
    | none => s.refuse .badRecord
    | some p =>
      if (s.port p).state.live then s.refuse .portState
      else
        let q := clampParams r.params
        ⟨s.modPort p fun x => { x with params := q, budget := fullBudget q }, .ok, .params q⟩

def execConfigurePort (s : State) : Host.Outcome State Fault Refusal :=
  .next (s.handle 0x01 ownConfigure)

/-! ### LOAD_RATES (R46, R47) -/

/-- Entries written to consecutive codes, clamped, from `first` on (R47). -/
def writeRates : Nat → List RateEntry → Table RateEntry → Table RateEntry
  | _, [], t => t
  | c, e :: es, t =>
    writeRates (c + 1) es (Table.set RateEntry.disabledEntry t c (clampRate e))

def ownLoadRates (body : List Byte) (s : State) : Answer :=
  match parseLoadRates body with
  | none => s.refuse .badRecord
  | some r =>
    match portOf r.port with
    | none => s.refuse .badRecord
    | some p =>
      if r.first = 0 ∨ 31 < r.first + r.entries.length - 1 then s.refuse .badRecord
      else
        let s1 := s.modPort p fun q => { q with rates := writeRates r.first r.entries q.rates }
        let n := (s1.port p).enabledCodes.length
        let s2 := if r.entries.any RateEntry.enabled then
            (s1.wake p).decideIfWoken p (s.port p).state
          else s1
        ⟨s2, .ok, .enabledCodes n⟩

def execLoadRates (s : State) : Host.Outcome State Fault Refusal :=
  .next (s.handle 0x02 ownLoadRates)

/-! ### SET_WEIGHTS (R48) -/

def writeWeights : Nat → List Nat → Table Nat → Table Nat
  | _, [], t => t
  | c, w :: ws, t => writeWeights (c + 1) ws (Table.set weightDefault t c w)

def ownSetWeights (body : List Byte) (s : State) : Answer :=
  match parseWeights body with
  | none => s.refuse .badRecord
  | some ws =>
    let stored := ws.map clampWeight
    ⟨{ s with weights := writeWeights 0 stored s.weights }, .ok, .weights stored⟩

def execSetWeights (s : State) : Host.Outcome State Fault Refusal :=
  .next (s.handle 0x03 ownSetWeights)

/-! ### SET_MONITOR (R173) -/

def ownSetMonitor (body : List Byte) (s : State) : Answer :=
  match parseMonitor body with
  | none => s.refuse .badRecord
  | some m => ⟨{ s with monitor := clampMonitor m }, .ok, .monitor (clampMonitor m)⟩

def execSetMonitor (s : State) : Host.Outcome State Fault Refusal :=
  .next (s.handle 0x04 ownSetMonitor)

/-! ### SET_LIFETIMES (R34) -/

/-- The three values are stored, the timer is tested against the new coalescing time (R146) and the
completion-forming test is made (R147). -/
def State.storeLifetimes (s : State) (l : Lifetimes) : State :=
  { s with lifetimes := l,
           coalTimer := coalTimerOf s.done s.clock.us l.coalescing }.testCompletion

def ownSetLifetimes (body : List Byte) (s : State) : Answer :=
  match parseLifetimes body with
  | none => s.refuse .badRecord
  | some l => ⟨s.storeLifetimes (clampLifetimes l), .ok, .lifetimes (clampLifetimes l)⟩

def execSetLifetimes (s : State) : Host.Outcome State Fault Refusal :=
  .next (s.handle 0x05 ownSetLifetimes)

/-! ### START_PORT (R113) -/

/-- A STOPPED or DRAINING port goes RUNNING: budget, epoch timer, the set's resend, then an
opportunity (R84, R85, R113, R164). -/
def State.startPort (s : State) (p : PortNo) : State :=
  ((s.modPort p fun q =>
    { q with state := .running, budget := fullBudget q.params,
             epochTimer := some q.params.epochLength }).resendTis p).opportunity p

/-- The state an accepted START_PORT reports (R113): RUNNING, or the state the decision it gives rise
to leaves the port in. The choice is free (assumption 11). -/
def startedState (after : PortState) : PortState :=
  if Config.startReplySeesDecision then after else .running

def ownStartPort (body : List Byte) (s : State) : Answer :=
  match parsePort body with
  | none => s.refuse .badRecord
  | some n =>
    match portOf n with
    | none => s.refuse .badRecord
    | some p =>
      match (s.port p).state with
      | .absent => s.refuse .portAbsent
      | .running => ⟨s, .ok, .portState .running⟩
      | .suspended =>
        let s1 := (s.wake p).opportunity p
        ⟨s1, .ok, .portState (startedState (s1.port p).state)⟩
      | .stopped | .draining =>
        if (s.port p).hasRates then
          let s1 := s.startPort p
          ⟨s1, .ok, .portState (startedState (s1.port p).state)⟩
        else s.refuse .noRates

def execStartPort (s : State) : Host.Outcome State Fault Refusal :=
  .next (s.handle 0x06 ownStartPort)

/-! ### STOP_PORT (R114) -/

/-- A RUNNING or SUSPENDED port stops, or drains while grants are in flight. -/
def Port.stop (q : Port) : Port :=
  if q.inFlight = [] then q.rest .stopped
  else { q with state := .draining, resumeTimer := none, suspendReason := .none }

def ownStopPort (body : List Byte) (s : State) : Answer :=
  match parsePort body with
  | none => s.refuse .badRecord
  | some n =>
    match portOf n with
    | none => s.refuse .badRecord
    | some p =>
      match (s.port p).state with
      | .absent => s.refuse .portAbsent
      | .running | .suspended =>
        let s1 := s.modPort p Port.stop
        ⟨s1, .ok, .portState (s1.port p).state⟩
      | .stopped => ⟨s, .ok, .portState .stopped⟩
      | .draining => ⟨s, .ok, .portState .draining⟩

def execStopPort (s : State) : Host.Outcome State Fault Refusal :=
  .next (s.handle 0x07 ownStopPort)

end Sys2Proof.Machine
end

