-- ==== Sys2Proof/Machine/Stations.lean ====
section
/-! DEFINITION. The Station Table's requests: ADMIT, UPDATE, DEPART, QUERY_STATION (chapter 1). -/

namespace Sys2Proof.Machine

/-! ### ADMIT (R5 to R7) -/

/-- The record an accepted ADMIT stores: the binding, the clamped tunable fields, every other field at
its vacant value (R6, R7). -/
def admittedRecord (p : PortNo) (r : AdmitReq) : Station :=
  { Station.vacantRecord with
    state := .active, port := p, assoc := r.assoc, cls := clampClass r.cls,
    rateMode := clampRateMode r.rateMode, rateCode := clampRateCode r.rateCode,
    queueCap := clampQueueCap r.queueCap, frameLimit := clampFrameLimit r.frameLimit }

/-- The checks of R5 after the body length, in their order. -/
def State.checkAdmit (s : State) (r : AdmitReq) : Except ReplyCode PortNo :=
  if 511 < r.station then .error .badStation
  else match portOf r.port with
    | none => .error .badRecord
    | some p =>
      if r.assoc = 0 ∨ 1023 < r.assoc then .error .badRecord
      else if (s.station r.station).state ≠ .vacant then .error .notVacant
      else if (s.port p).state = .absent then .error .portAbsent
      else if ((s.port p).mapped r.assoc).isSome then .error .duplicateAssoc
      else .ok p

def ownAdmit (body : List Byte) (s : State) : Answer :=
  match parseAdmit body with
  | none => s.refuse .badRecord
  | some r =>
    match s.checkAdmit r with
    | .error c => s.refuse c
    | .ok p =>
      ⟨(s.setStation r.station (admittedRecord p r)).modPort p
        fun q => q.setMapped r.assoc (some r.station), .ok, .nothing⟩

def execAdmit (s : State) : Host.Outcome State Fault Refusal := .next (s.handle 0x10 ownAdmit)

/-! ### The checks that other station requests share -/

/-- BAD_STATION, NOT_ADMITTED, DEPARTING, in that order (R2, R8, R12, R26, R32). -/
def State.checkActive (s : State) (i : Nat) : Option ReplyCode :=
  if 511 < i then some .badStation
  else match (s.station i).state with
    | .vacant => some .notAdmitted
    | .departing => some .departing
    | .active => none

/-! ### UPDATE (R8 to R11) -/

/-- The masked fields are written, clamped; the queue cap never below the holding (R10). -/
def updatedRecord (r : UpdateReq) (x : Station) : Station :=
  { x with
    cls := if r.setClass then clampClass r.cls else x.cls
    rateMode := if r.setRateMode then clampRateMode r.rateMode else x.rateMode
    queueCap := if r.setQueueCap then max (clampQueueCap r.queueCap) x.holding else x.queueCap
    frameLimit := if r.setFrameLimit then clampFrameLimit r.frameLimit else x.frameLimit }

def ownUpdate (body : List Byte) (s : State) : Answer :=
  match parseUpdate body with
  | none => s.refuse .badRecord
  | some r =>
    match s.checkActive r.station with
    | some c => s.refuse c
    | none =>
      let x := updatedRecord r (s.station r.station)
      ⟨s.setStation r.station x, .ok, .queueCap x.queueCap⟩

def execUpdate (s : State) : Host.Outcome State Fault Refusal := .next (s.handle 0x11 ownUpdate)

/-! ### DEPART (R12 to R17) -/

/-- What an accepted DEPART does before its reply (R13): rotations, demand, flush, PS state, set, and
the test of R16. -/
def State.depart (s : State) (i : Nat) : State :=
  let s1 := s.modStation i fun r => { r with state := .departing }
  let s2 := ((s1.retestMain i true).retestExp i).retestUl i
  let s3 := s2.modStation i fun r => { r with demand := 0 }
  let s4 := (s3.flushTier i .expedited).flushTier i .standard
  ((s4.setPs i .awake 0 0).retestTis i).testDeparture i

def ownDepart (body : List Byte) (s : State) : Answer :=
  match parseStation body with
  | none => s.refuse .badRecord
  | some i =>
    match s.checkActive i with
    | some c => s.refuse c
    | none => ⟨s.depart i, .ok, .nothing⟩

def execDepart (s : State) : Host.Outcome State Fault Refusal := .next (s.handle 0x12 ownDepart)

/-! ### QUERY_STATION (R19) -/

/-- The report of one station, taken at one moment. A VACANT record shows effective code 0 and no
membership; the time to the deadline is 0 outside SERVICE. -/
def State.stationReport (s : State) (i : Nat) : StationReport :=
  let r := s.station i
  let q := s.port r.port
  let isBound := r.state != .vacant
  { station := i, state := r.state, port := r.port, assoc := r.assoc, cls := r.cls,
    rateMode := r.rateMode, rateCode := r.rateCode,
    effectiveCode := if isBound then (q.effectiveCode r.namedCode).getD 0 else 0,
    queueCap := r.queueCap, frameLimit := r.frameLimit, holding := r.holding,
    unreported := r.unreported, expCount := r.expFifo.length, stdCount := r.stdFifo.length,
    dlBalance := r.dlBalance, ulBalance := r.ulBalance, mainCredited := r.mainCredited,
    ulCredited := r.ulCredited, inMain := isBound && q.mainRot.contains i,
    inExpedited := isBound && q.expRot.contains i, inUplink := isBound && q.ulRot.contains i,
    dlInFlight := r.dlInFlight, ulInFlight := r.ulInFlight, demand := r.demand, ps := r.ps,
    allowance := r.allowance,
    timeToDeadline := if r.ps = .service then timeLeft s.clock.ms r.deadline else 0,
    health := r.health, attempts := r.attempts, failures := r.failures,
    degradedWindows := r.degradedWindows, airDl := r.airDl, airUl := r.airUl }

def ownQuery (body : List Byte) (s : State) : Answer :=
  match parseStation body with
  | none => s.refuse .badRecord
  | some i => if 511 < i then s.refuse .badStation else ⟨s, .ok, .station (s.stationReport i)⟩

def execQueryStation (s : State) : Host.Outcome State Fault Refusal :=
  .next (s.handle 0x13 ownQuery)

end Sys2Proof.Machine
end

