-- ==== Sys2Proof/Machine/Descriptors.lean ====
section
/-! DEFINITION. The Descriptor Pool's requests: ENQUEUE and FLUSH (chapter 2). -/

namespace Sys2Proof.Machine

/-! ### ENQUEUE (R26 to R31) -/

/-- The tests of one entry, in their order; `none` when it is accepted (R27). -/
def State.testEntry (s : State) (i : Nat) (d : Descriptor) : Option ReplyCode :=
  let r := s.station i
  if d.length = 0 ∨ 8000 < d.length then some .badFrameLength
  else if r.queueCap ≤ r.holding then some .queueFull
  else if s.freeStack = [] then some .poolEmpty
  else none

/-- The slot an accepted entry fills (R28 step 2); its link field chains it from now on. -/
def State.queuedSlot (s : State) (i : Nat) (d : Descriptor) : Slot :=
  { state := .queued, handle := d.handle, station := i, tier := d.tier, length := d.length,
    solo := d.solo, enqueued := s.clock.ms, status := .delivered, linked := true }

/-- One accepted entry (R28). -/
def State.acceptEntry (s : State) (i : Nat) (d : Descriptor) : State :=
  match s.freeStack with
  | [] => s
  | k :: rest =>
    (({ s with freeStack := rest }.setSlot k (s.queuedSlot i d)).modStation i fun r =>
      { r.setFifo d.tier (r.fifo d.tier ++ [k]) with holding := r.holding + 1 }).presentEvents i
      d.tier

/-- The entries in record order until the first that fails: the state, how many were accepted, and
the first failure's code, OK when none failed (R27, R29). -/
def acceptEntries (i : Nat) : List Descriptor → Nat → State → State × Nat × ReplyCode
  | [], n, s => (s, n, .ok)
  | d :: ds, n, s =>
    match s.testEntry i d with
    | some c => (s, n, c)
    | none => acceptEntries i ds (n + 1) (s.acceptEntry i d)

/-- The status of an ENQUEUE reply from the accepted count and the first failure (R29). -/
def enqueueStatus (accepted : Nat) (first : ReplyCode) : ReplyCode :=
  if first = .ok then .ok else if accepted = 0 then first else .partialAccepted

/-- A refusal of the whole request carries its code twice and count 0 (R26, R29). -/
def State.refuseEnqueue (s : State) (c : ReplyCode) : Answer := ⟨s, c, .enqueue 0 c⟩

/-- ENQUEUE's owner (R26 to R31). A station that joins a rotation at an entry wakes a SUSPENDED port at that
moment (R81); that the decision of a port so woken waits for the last accepted entry is the model's choice
(DESIGN CHOICE, unsafe: assumption 32). -/
def ownEnqueue (body : List Byte) (s : State) : Answer :=
  match parseEnqueue body with
  | none => s.refuseEnqueue .badRecord
  | some r =>
    match s.checkActive r.station with
    | some c => s.refuseEnqueue c
    | none =>
      let p := s.portOfStation r.station
      let (s1, n, first) := acceptEntries r.station r.entries 0 s
      let s2 := if n = 0 then s1 else (s1.wake p).decideIfWoken p (s.port p).state
      ⟨s2, enqueueStatus n first, .enqueue n first⟩

def execEnqueue (s : State) : Host.Outcome State Fault Refusal := .next (s.handle 0x20 ownEnqueue)

/-! ### FLUSH (R32, R33) -/

/-- The flush of the selected tiers, EXPEDITED first, and the number of slots flushed. -/
def State.flushTiers (s : State) (i : Nat) (sel : Selector) : State × Nat :=
  let r := s.station i
  match sel with
  | .expedited => (s.flushTier i .expedited, r.expFifo.length)
  | .standard => (s.flushTier i .standard, r.stdFifo.length)
  | .both => ((s.flushTier i .expedited).flushTier i .standard, r.queuedCount)

def ownFlush (body : List Byte) (s : State) : Answer :=
  match parseFlush body with
  | none => s.refuse .badRecord
  | some r =>
    match s.checkActive r.station with
    | some c => s.refuse c
    | none =>
      let i := r.station
      let (s1, n) := s.flushTiers i r.selector
      let s2 := if 0 < n ∧ (s1.station i).queuedCount = 0 then s1.runDry i else s1
      ⟨s2, .ok, .flushed n⟩

def execFlush (s : State) : Host.Outcome State Fault Refusal := .next (s.handle 0x21 ownFlush)

end Sys2Proof.Machine
end

