-- ==== Sys2Proof/Machine/Radio.lean ====
section
/-! DEFINITION. What the radios send: HELLO, OUTCOME, UL_OUTCOME, DEMAND, HOLD, RESUME, and the records
discarded by their framing (R91, R101 to R104, R109, R110, R121, R129 to R131, R136 to R144, R169 to
R172, R178). A record that arrives during initialization has no effect and is not counted (R108). -/

namespace Sys2Proof.Machine

/-- A record taken on Radio Link `p`: the link's receiver hunts anew (R177), and the record has its
effect unless initialization is under way (R108). -/
def State.arrive (s : State) (p : PortNo) (f : State → State) : State :=
  if s.init.active then s.frameTaken (.radio p) else f (s.frameTaken (.radio p))

/-! ### HELLO (R109, R110) -/

/-- A HELLO on an ABSENT port. -/
def State.greet (s : State) (p : PortNo) (depth : Nat) : State :=
  (s.modPort p fun q =>
    { q with depth, consecutiveTimeouts := 0, state := .stopped }).placeNotice
    (.portEvent p .present .none)

def State.helloTaken (s : State) (p : PortNo) (d : Byte) : State :=
  if (s.port p).state = .absent then s.greet p (clampDepth d) else s.restartRadio p (clampDepth d)

def execHello (p : PortNo) (d : Byte) (s : State) : Host.Outcome State Fault Refusal :=
  .next (s.arrive p fun s => s.helloTaken p d)

/-! ### The Retry Monitor (R169 to R172) -/

/-- The close of a window: health, consecutive count, notice, counters (R170, R171, R172). -/
def State.closeWindow (s : State) (i : Nat) : State :=
  let r := s.station i
  let h : Health :=
    if r.health = .healthy ∧ s.monitor.degrade ≤ r.failures then .degraded
    else if r.health = .degraded ∧ r.failures ≤ s.monitor.recover then .healthy
    else r.health
  let n := if h = .degraded then min 255 (r.degradedWindows + 1) else 0
  let s1 := if h = r.health then s else s.placeNotice (.stationHealth i h r.failures)
  s1.setStation i { r with health := h, degradedWindows := n, attempts := 0, failures := 0 }

/-- One settled result fed to the monitor (R169). -/
def State.feed (s : State) (i : Nat) (res : Result) : State :=
  match res with
  | .unsent => s
  | .delivered | .failed =>
    let s1 := s.modStation i fun r =>
      { r with attempts := r.attempts + 1,
               failures := if res = .failed then r.failures + 1 else r.failures }
    if s.monitor.window ≤ (s1.station i).attempts then s1.closeWindow i else s1

/-! ### OUTCOME (R121, R136 to R144) -/

/-- The result of each slot: the record's in order, UNSENT where there is none, extras ignored (R137,
R138). -/
def settledResults (n : Nat) (results : List Byte) : List Result :=
  (results.map resultOf ++ List.replicate n Result.unsent).take n

/-- A count that differs, or a value outside the three (R138). -/
def anomalous (n : Nat) (results : List Byte) : Bool :=
  results.length != n || results.any fun b => decide (2 < b.toNat)

/-- The slots are settled in slot-list order; `pos` counts the slots already put back (R137). -/
def settleSlots (i : Nat) (t : Tier) : List (Nat × Result) → Nat → State → State
  | [], _, s => s
  | (k, .delivered) :: ks, pos, s => settleSlots i t ks pos (s.endInFlight i k .delivered)
  | (k, .failed) :: ks, pos, s => settleSlots i t ks pos (s.endInFlight i k .failed)
  | (k, .unsent) :: ks, pos, s =>
    if (s.station i).state = .departing then
      settleSlots i t ks pos (s.endInFlight i k .flushed)
    else settleSlots i t ks (pos + 1) (s.returnSlot i t pos k)

/-- The reported rate is followed, ignored and counted, or not followed for a pinned station
(R141). -/
def State.followRate (s : State) (p : PortNo) (i : Nat) (code : Nat) : State :=
  if (s.station i).rateMode ≠ 0 then s
  else if 1 ≤ code ∧ code ≤ 31 then s.modStation i fun r => { r with rateCode := code }
  else s.modPort p fun q => { q with rateIgnored := satCount q.rateIgnored }

/-- A demand field of an outcome: stored for an ACTIVE station (R92, R142). -/
def State.outcomeDemand (s : State) (i : Nat) (d : Option (BitVec 24)) : State :=
  match d with
  | some v => if (s.station i).state = .departing then s else s.setDemand i v.toNat
  | none => s

/-- A matched OUTCOME clears the consecutive-timeout count (R121, R125). -/
def State.heardOutcome (s : State) (p : PortNo) : State :=
  s.modPort p fun q => { q with consecutiveTimeouts := 0 }

/-- Steps 1 to 6 of R136 for the DL entry of station `i`. -/
def State.settleOutcome (s : State) (p : PortNo) (i : Nat) (t : Tier) (slots : List Nat)
    (estimate : Nat) (o : OutcomeRecord) : State :=
  let results := settledResults slots.length o.results
  let s1 := if anomalous slots.length o.results then
      s.modPort p fun q => { q with resultAnomalies := satCount q.resultAnomalies }
    else s
  let s2 := settleSlots i t (slots.zip results) 0 s1
  let s3 := s2.trueUpDl i estimate o.actual.toNat
  let s4 := s3.modStation i fun r => { r with airDl := r.airDl + o.actual.setWidth 32 }
  let s5 := s4.followRate p i o.rateCode.toNat
  let s6 := s5.outcomeDemand i o.demand
  results.foldl (fun s r => s.feed i r) s6

/-- An outcome that matches no entry of its kind (R121). -/
def State.unmatched (s : State) (p : PortNo) : State :=
  s.modPort p fun q => { q with unmatchedOutcomes := satCount q.unmatchedOutcomes }

def State.outcomeTaken (s : State) (p : PortNo) (o : OutcomeRecord) : State :=
  match (s.port p).entry o.number with
  | some e =>
    match e.work with
    | .dl i t slots estimate _ _ =>
      (((s.heardOutcome p).settleOutcome p i t slots estimate o).endEntry p e).considerPort p
    | .ul .. => s.unmatched p
  | none => s.unmatched p

def execOutcome (p : PortNo) (o : OutcomeRecord) (s : State) : Host.Outcome State Fault Refusal :=
  .next (s.arrive p fun s => s.outcomeTaken p o)

/-! ### UL_OUTCOME (R101 to R104) -/

/-- The record's entries resolved in order: those used, each with its invitee, and the number ignored
(R101). -/
def resolveEntries (q : Port) (invited : List Nat) :
    List UlEntry → List (Nat × UlEntry) → Nat → List (Nat × UlEntry) × Nat
  | [], used, ignored => (used, ignored)
  | e :: es, used, ignored =>
    match q.mapped e.assoc.toNat with
    | some i =>
      if invited.contains i && !(used.map Prod.fst).contains i then
        resolveEntries q invited es (used ++ [(i, e)]) ignored
      else resolveEntries q invited es used (ignored + 1)
    | none => resolveEntries q invited es used (ignored + 1)

/-- What an invitee is processed with: its entry's figures, or 0, 0 and no demand (R101). -/
structure UlFigures where
  actual : Nat
  bytes  : Nat
  demand : Option (BitVec 24)

def figuresOf (used : List (Nat × UlEntry)) (i : Nat) : UlFigures :=
  match used.find? (fun x => x.1 == i) with
  | some (_, e) => ⟨e.actual.toNat, e.bytes.toNat, e.demand⟩
  | none => ⟨0, 0, none⟩

/-- The new demand of an invitee (R103). -/
def State.inviteeDemand (s : State) (i : Nat) (f : UlFigures) : State :=
  let r := s.station i
  if r.state = .departing then s
  else match f.demand with
    | some v => s.setDemand i v.toNat
    | none => if 0 < f.bytes then s.setDemand i (r.demand - f.bytes) else s.setDemand i 0

/-- One invitee: true-up, airtime, demand (R102, R103). -/
def State.processInvitee (s : State) (v : Invitation) (f : UlFigures) : State :=
  let s1 := s.trueUpUl v.station v.allotment f.actual
  let s2 := s1.modStation v.station fun r =>
    { r with airUl := r.airUl + BitVec.ofNat 32 f.actual }
  s2.inviteeDemand v.station f

/-- The record's figures applied to the invitees in invitation-list order. -/
def State.settleWindow (s : State) (p : PortNo) (invited : List Invitation)
    (entries : List UlEntry) : State :=
  let (used, ignored) :=
    resolveEntries (s.port p) (invited.map Invitation.station) entries [] 0
  let s1 := s.modPort p fun q => { q with discarded := min 65535 (q.discarded + ignored) }
  invited.foldl (fun s v => s.processInvitee v (figuresOf used v.station)) s1

/-- A UL_OUTCOME on Radio Link `p` (R101 to R104). An invitee whose new demand makes it join wakes a SUSPENDED
port at that moment (R94, R81); that the decision of a port so woken comes only when every invitee has been
processed and the window has ended is the model's choice (DESIGN CHOICE, unsafe: assumption 32). -/
def State.ulOutcomeTaken (s : State) (p : PortNo) (o : UlOutcomeRecord) : State :=
  match (s.port p).entry o.number with
  | some e =>
    match e.work with
    | .ul invited _ =>
      (((s.heardOutcome p).settleWindow p invited o.entries).endEntry p e).considerPort p
    | .dl .. => s.unmatched p
  | none => s.unmatched p

def execUlOutcome (p : PortNo) (o : UlOutcomeRecord) (s : State) :
    Host.Outcome State Fault Refusal :=
  .next (s.arrive p fun s => s.ulOutcomeTaken p o)

/-! ### DEMAND (R91) -/

def State.demandTaken (s : State) (p : PortNo) (assoc : Nat) (bytes : Nat) : State :=
  match (s.port p).mapped assoc with
  | none => s.countDiscard p
  | some i =>
    if (s.station i).state = .departing then s.countDiscard p
    else (s.setDemand i bytes).decideIfWoken p (s.port p).state

def execDemand (p : PortNo) (assoc : Half) (bytes : Word) (s : State) :
    Host.Outcome State Fault Refusal :=
  .next (s.arrive p fun s => s.demandTaken p assoc.toNat bytes.toNat)

/-! ### HOLD and RESUME (R129, R131) -/

def State.holdTaken (s : State) (p : PortNo) (reason : HoldReason) : State :=
  if (s.port p).state = .absent ∨ (s.port p).hold then s.countDiscard p
  else (s.modPort p fun q =>
    { q with hold := true, holdReason := reason, holdTimer := some q.params.holdLimit }).placeNotice
    (.portEvent p .holdBegin reason)

def execHold (p : PortNo) (reason : Byte) (s : State) : Host.Outcome State Fault Refusal :=
  .next (s.arrive p fun s => s.holdTaken p (holdReasonOf reason))

/-- HOLD_END carries the reason of the hold it ends; a RESUME is a wake cause in every state but
ABSENT. An opportunity follows where the flag was set on a RUNNING port, or the port is woken. -/
def State.resumeTaken (s : State) (p : PortNo) : State :=
  let q := s.port p
  if q.state = .absent then s
  else if q.hold then
    (((s.modPort p Port.clearHold).placeNotice (.portEvent p .holdEnd q.holdReason)).wake
      p).opportunity p
  else (s.wake p).decideIfWoken p q.state

def execResume (p : PortNo) (s : State) : Host.Outcome State Fault Refusal :=
  .next (s.arrive p fun s => s.resumeTaken p)

/-! ### Records discarded by their framing (R178) -/

/-- RADIO_RECORD_DISCARDED: a record an owner takes is not discarded here. -/
def execRadioRecordDiscarded (p : PortNo) (type : Byte) (body : List Byte) (s : State) :
    Host.Outcome State Fault Refusal :=
  .next (s.arrive p fun s =>
    if decodeRadio p type body = .radioRecordDiscarded p type body then s.countDiscard p else s)

end Sys2Proof.Machine
end

