-- ==== Sys2Proof/Machine/PowerSave.lean ====
section
/-! DEFINITION. The PS_EVENT records (R153 to R156). What arrives is decided by R153 in the station's
state: each of the four commands is a PS_EVENT of a kind, taken or discarded. -/

namespace Sys2Proof.Machine

/-- A DOZE for an AWAKE or SERVICE station (R154). -/
def State.dozeTaken (s : State) (i : Nat) : State := ((s.setPs i .doze 0 0).revoke i).retestTis i

/-- A WAKE for a DOZE or SERVICE station (R155). -/
def State.wakeTaken (s : State) (i : Nat) : State := (s.setPs i .awake 0 0).retestTis i

/-- A TRIGGER for a DOZE station (R156). -/
def State.triggerTaken (s : State) (i : Nat) : State :=
  let r := s.station i
  if 0 < r.queuedCount then
    (s.setPs i .service r.frameLimit
      (s.clock.ms + BitVec.ofNat 32 (s.port r.port).params.serviceTimeout)).retestTis i
  else s.sendServiceEmpty i

/-- A PS_EVENT of a kind for an ACTIVE station, or `none` where the kind is not taken in the station's
PS state (R153). -/
def State.psEventFor (s : State) (i : Nat) (kind : Byte) : Option State :=
  let ps := (s.station i).ps
  if kind = 0 then if ps = .doze then none else some (s.dozeTaken i)
  else if kind = 1 then if ps = .awake then none else some (s.wakeTaken i)
  else if kind = 2 then if ps = .doze then some (s.triggerTaken i) else none
  else none

/-- A PS_EVENT arriving on Radio Link `p` (R153): discarded and counted, or taken; a decision follows
where it woke the port, after every effect of the event (DESIGN CHOICE, unsafe: assumption 32). -/
def State.psEventTaken (s : State) (p : PortNo) (assoc : Nat) (kind : Byte) : State :=
  match (s.port p).mapped assoc with
  | none => s.countDiscard p
  | some i =>
    if (s.station i).state = .departing then s.countDiscard p
    else match s.psEventFor i kind with
      | none => s.countDiscard p
      | some s1 => s1.decideIfWoken p (s.port p).state

def execPsEventDoze (p : PortNo) (assoc : Half) (s : State) : Host.Outcome State Fault Refusal :=
  .next (s.arrive p fun s => s.psEventTaken p assoc.toNat 0)

def execPsEventWake (p : PortNo) (assoc : Half) (s : State) : Host.Outcome State Fault Refusal :=
  .next (s.arrive p fun s => s.psEventTaken p assoc.toNat 1)

def execPsEventTrigger (p : PortNo) (assoc : Half) (s : State) :
    Host.Outcome State Fault Refusal :=
  .next (s.arrive p fun s => s.psEventTaken p assoc.toNat 2)

def execPsEventDiscarded (p : PortNo) (assoc : Half) (kind : Byte) (s : State) :
    Host.Outcome State Fault Refusal :=
  .next (s.arrive p fun s => s.psEventTaken p assoc.toNat kind)

end Sys2Proof.Machine
end

