-- ==== Sys2Proof/Machine/Reset.lean ====
section
/-! DEFINITION. The two resets and initialization (R1, R18, R21, R43, R63, R107, R108, R135, R152,
R168, R183, R185, R186), and REPLY_SENT, which is where a RESET_PART takes effect. -/

namespace Sys2Proof.Machine

/-- Every block at its reset values and initialization begun for a cause (R186). The free-running time
base, the model's counter of free choices and the queue of waiting commands are not the blocks'
(assumption 3). -/
def State.resetTo (s : State) (cause : ResetCause) : State :=
  { State.reset with
    clock := s.clock, freeIx := s.freeIx, pending := s.pending, init := ⟨true, 1000, cause⟩ }

/-- RESET_N is asserted: every block takes its reset values, and while the line is low RDY and ATTN are
low (R179, R180). -/
def State.assertReset (s : State) : State := { s.resetTo .resetN with resetLow := true }

/-- RESET_N is released: initialization begins (R186), and RDY follows the queue (R179). -/
def State.releaseReset (s : State) : State :=
  { s with resetLow := false, init := ⟨true, 1000, .resetN⟩ }

/-- RESET_N: asserted and then released (R186, assumption 24). -/
def execResetN (s : State) : Host.Outcome State Fault Refusal := .next s.assertReset.releaseReset

/-- The six link counts at 0 (R183). -/
def State.clearLinkCounts (s : State) : State :=
  let clear (q : Port) : Port := { q with badFrames := 0, discarded := 0 }
  { s with
    cli := { s.cli with badFrames := 0, overruns := 0 }
    port0 := clear s.port0
    port1 := clear s.port1 }

/-- INITIALIZATION_COMPLETE (R186, R108): READY, then an ANNOUNCE on each Radio Link. -/
def execInitializationComplete (s : State) : Host.Outcome State Fault Refusal :=
  .next (if s.init.active then
      let s1 := { s.clearLinkCounts with init := { s.init with active := false, left := 0 } }
      (((s1.placeNotice (.ready s.init.cause)).send .zero (.announce .zero)).send .one
        (.announce .one))
    else s)

/-- The reply whose last byte can go next is the OK of a RESET_PART (R185). -/
def State.resetPartWaits (s : State) : Bool :=
  s.cli.replyLeaves && match s.cli.reply with
    | some r => r.type == 0xB1 && r.code == .ok
    | none => false

/-- REPLY_SENT (R179): the head record leaves, and the next may be handled. With the last byte of a
RESET_PART's OK the reset takes effect (R185). A reply formed while a notice is being clocked out waits
until the notice has gone (R180). -/
def execReplySent (s : State) : Host.Outcome State Fault Refusal :=
  .next (if s.resetPartWaits then s.resetTo .resetPart
    else if s.cli.replyLeaves then s.popReply
    else s)

/-- RESET_PART_TAKES_EFFECT (R185). -/
def execResetPartTakesEffect (s : State) : Host.Outcome State Fault Refusal :=
  .next (if s.resetPartWaits then s.resetTo .resetPart else s)

/-- RESET_PART (R185): answered OK; the effect waits for the reply's last byte. -/
def ownResetPart (body : List Byte) (s : State) : Answer :=
  if body = [] then ⟨s, .ok, .nothing⟩ else s.refuse .badRecord

def execResetPart (s : State) : Host.Outcome State Fault Refusal :=
  .next (s.handle 0x31 ownResetPart)

end Sys2Proof.Machine
end

