-- ==== Sys2Proof/Machine/StatusRequest.lean ====
section
/-! DEFINITION. STATUS (R87, R134, R151, R167, R175, R184). -/

namespace Sys2Proof.Machine

/-- An in-flight entry as STATUS shows it (R134). -/
def InFlight.report (e : InFlight) (now : Word) : EntryReport :=
  { number := e.number
    isUplink := match e.work with
      | .dl .. => false
      | .ul .. => true
    timeLeft := timeLeft now e.deadline }

/-- The number of the port's stations in a PS state (R167). -/
def State.psCount (s : State) (p : PortNo) (ps : PsState) : Nat :=
  (s.bound.filter fun i => (s.station i).port == p && (s.station i).ps == ps).length

/-- The port block. -/
def State.portReport (s : State) (p : PortNo) : PortReport :=
  let q := s.port p
  { state := q.state, hold := q.hold, resumeArmed := q.resumeTimer.isSome,
    holdReason := q.holdReason, holdTimeLeft := q.holdTimer.getD 0, depth := q.depth,
    inFlightCount := q.inFlight.length, entries := q.inFlight.map (·.report s.clock.ms),
    nextNumber := q.nextNumber, consecutiveTimeouts := q.consecutiveTimeouts,
    grantTimeouts := q.grantTimeouts, unmatchedOutcomes := q.unmatchedOutcomes,
    portLosses := q.portLosses, radioRestarts := q.radioRestarts, holdStalls := q.holdStalls,
    params := q.params, resultAnomalies := q.resultAnomalies, rateIgnored := q.rateIgnored,
    mainCount := q.mainRot.length, expCount := q.expRot.length, ulCount := q.ulRot.length,
    mainHead := q.mainRot.headD 512, budget := q.budget, fullBudget := fullBudget q.params,
    sinceUplink := q.sinceUplink, epochTimeLeft := q.epochTimer.getD 0,
    suspendReason := q.suspendReason, tisCount := q.tis.length, dozeCount := s.psCount p .doze,
    serviceCount := s.psCount p .service }

/-- The items of R184, all taken at one moment. -/
def State.statusItems (s : State) : StatusReport :=
  { initializing := s.init.active, lossPending := s.cli.lossPending,
    controlBadFrames := s.cli.badFrames, overruns := s.cli.overruns,
    badFrames0 := s.port0.badFrames, discarded0 := s.port0.discarded,
    badFrames1 := s.port1.badFrames, discarded1 := s.port1.discarded,
    inboundCount := s.cli.inbound.length, noticeCount := s.cli.notices.length,
    freeCount := s.slotCount .free, queuedCount := s.slotCount .queued,
    inFlightCount := s.slotCount .inFlight, doneCount := s.slotCount .done,
    lifetimes := s.lifetimes, doneLength := s.done.length,
    completionCount := s.cli.completionCount, coalTimer := s.coalTimer, monitor := s.monitor,
    weights := (List.range 8).map s.weight, port0 := s.portReport .zero,
    port1 := s.portReport .one }

/-- During initialization every field but the initializing flag reports its reset value (R184). -/
def State.statusReport (s : State) : StatusReport :=
  if s.init.active then State.reset.statusItems else s.statusItems

/-- STATUS is answered in every state of the part; its body is empty (R184). -/
def execStatus (s : State) : Host.Outcome State Fault Refusal :=
  .next (match s.headRequest 0x30 with
    | none => s
    | some r =>
      if r.body = [] then s.putReply (r.type + 0x80) r.tag .ok (.status s.statusReport)
      else s.putReply (r.type + 0x80) r.tag .badRecord .nothing)

end Sys2Proof.Machine
end

