-- ==== Sys2Proof/Machine/Timers.lean ====
section
/-! DEFINITION. The timer events (R82, R86, R124, R130, R146, R159) and the tick of the time base that
makes them due. A timer event that is not due changes nothing (assumption 1). -/

namespace Sys2Proof.Machine

/-! ### The events -/

/-- A grant or window reaches its deadline (R124). The slots of the third in a row, like those of the
entries the loss then ends, are reported after the LOST notice (R126, assumption 18). -/
def State.timeoutTaken (s : State) (p : PortNo) (e : InFlight) : State :=
  let loses := decide (3 ≤ (s.port p).consecutiveTimeouts + 1)
  let settled := if loses then s.loseSlots e else s.settleLost e
  let s1 := (settled.endEntry p e).modPort p fun q =>
    { q with grantTimeouts := satCount q.grantTimeouts,
             consecutiveTimeouts := q.consecutiveTimeouts + 1 }
  if loses then s1.losePort p else s1.considerPort p

/-- GRANT_TIMEOUT: taken in RUNNING, SUSPENDED or DRAINING, for an entry that has reached its
deadline and not ended before (R123, R124). -/
def execGrantTimeout (p : PortNo) (number : Byte) (s : State) :
    Host.Outcome State Fault Refusal :=
  .next (match (s.port p).entry number with
    | some e => if (s.port p).state.live && e.due s.clock.ms then s.timeoutTaken p e else s
    | none => s)

/-- An expiry of the epoch timer (R86). -/
def State.epochTaken (s : State) (p : PortNo) : State :=
  let s1 := (s.modPort p fun q => { q with budget := fullBudget q.params }).sweep p
  let s2 := (s1.wake p).modPort p fun q => { q with epochTimer := some q.params.epochLength }
  s2.decideIfWoken p (s.port p).state

/-- EPOCH_EXPIRY. -/
def execEpochExpiry (p : PortNo) (s : State) : Host.Outcome State Fault Refusal :=
  .next (if (s.port p).epochTimer = some 0 then s.epochTaken p else s)

/-- RESUME_TIMER_EXPIRY (R82): a wake cause for the SUSPENDED port; the timer is disarmed. -/
def execResumeTimerExpiry (p : PortNo) (s : State) : Host.Outcome State Fault Refusal :=
  .next (if (s.port p).resumeTimer = some 0 then
      ((s.modPort p fun q => { q with resumeTimer := none }).wake p).decideIfWoken p
        (s.port p).state
    else s)

/-- HOLD_TIMER_EXPIRY (R130): STALLED, the count, and the flag left set. -/
def execHoldTimerExpiry (p : PortNo) (s : State) : Host.Outcome State Fault Refusal :=
  .next (if (s.port p).holdTimer = some 0 ∧ (s.port p).hold then
      (s.modPort p fun q =>
        { q with holdTimer := none, holdStalls := satCount q.holdStalls }).placeNotice
        (.portEvent p .stalled (s.port p).holdReason)
    else s)

/-- A service period reaches its deadline (R159). -/
def State.deadlineTaken (s : State) (i : Nat) : State :=
  let s1 := s.setPs i .doze 0 0
  let s2 := if (s.station i).dlInFlight then s1.revoke i else s1.sendServiceEmpty i
  s2.retestTis i

/-- SERVICE_DEADLINE. -/
def execServiceDeadline (i : Nat) (s : State) : Host.Outcome State Fault Refusal :=
  .next (if s.serviceDue i then s.deadlineTaken i else s)

/-- The coalescing timer's deadline has passed (R146). -/
def State.coalescingDue (s : State) : Bool :=
  s.coalTimer == .running &&
    coalTimerOf s.done s.clock.us s.lifetimes.coalescing == .expired

/-- COALESCING_TIMER_EXPIRY: the timer expires and the test of R147 is made. -/
def execCoalescingTimerExpiry (s : State) : Host.Outcome State Fault Refusal :=
  .next (if s.coalescingDue then { s with coalTimer := .expired }.testCompletion else s)

/-! ### The tick (assumption 2) -/

/-- A running timer counts down, and stays at 0 until its expiry is taken. -/
def countDown (t : Option Nat) : Option Nat := t.map (· - 1)

/-- The clock one microsecond on; `true` at a millisecond tick. -/
def Clock.advance (c : Clock) : Clock × Bool :=
  if 999 ≤ c.usInMs then (⟨c.us + 1, 0, c.ms + 1⟩, true)
  else (⟨c.us + 1, c.usInMs + 1, c.ms⟩, false)

/-- One microsecond on a port's timers and outbound queue. The epoch timer counts the millisecond ticks
of the time base and the resume timer microseconds. That the hold timer counts millisecond ticks too, and
so may run up to 1 ms short of the hold limit, is the model's choice (assumption 30). -/
def Port.tick (q : Port) (portNumber freeIx : Nat) (msTick : Bool) : Port :=
  { q with
    resumeTimer := countDown q.resumeTimer
    epochTimer := if msTick then countDown q.epochTimer else q.epochTimer
    holdTimer := if msTick then countDown q.holdTimer else q.holdTimer
    outbound := if Config.recordGone portNumber freeIx then q.outbound.tail else q.outbound }

/-- The events of a port that are due. -/
def State.duePort (s : State) (p : PortNo) : List Instr :=
  let q := s.port p
  (if q.resumeTimer = some 0 then [.resumeTimerExpiry p] else []) ++
    (if q.holdTimer = some 0 then [.holdTimerExpiry p] else []) ++
    (if q.epochTimer = some 0 then [.epochExpiry p] else []) ++
    (q.inFlight.filter fun e => e.due s.clock.ms).map fun e => .grantTimeout p e.number

/-- Every event that is due, by the rules' own conditions. -/
def State.dueEvents (s : State) : List Instr :=
  (if s.init.active ∧ s.init.left = 0 then [Instr.initializationComplete] else []) ++
    s.duePort .zero ++ s.duePort .one ++
    (s.bound.filter s.serviceDue).map Instr.serviceDeadline ++
    (if s.coalescingDue then [.coalescingTimerExpiry] else [])

/-- An element put into a list at a place. -/
def putAt {α : Type} (n : Nat) (x : α) (l : List α) : List α := l.take n ++ x :: l.drop n

/-- The due events in an order nothing fixes: each is put at a free place among those after it
(assumption 4). One event alone needs no choice. -/
def freeOrder : Nat → List Instr → List Instr
  | _, [] => []
  | _, [c] => [c]
  | ix, c :: cs =>
    let rest := freeOrder (ix + 1) cs
    putAt (Config.tiePlace ix % (rest.length + 1)) c rest

/-- One microsecond passes: the clock, the timers and the records being sent move on, and the events that
have come due join the queue of waiting commands. -/
def State.tick (s : State) : State :=
  let (clock, msTick) := s.clock.advance
  let s1 := { s with
    clock
    init := { s.init with left := if s.init.active then s.init.left - 1 else s.init.left }
    cli := s.cli.clockOut (Config.bytesClocked s.freeIx)
    port0 := s.port0.tick 0 s.freeIx msTick
    port1 := s.port1.tick 1 s.freeIx msTick }
  let due := s1.dueEvents
  { s1 with freeIx := s.freeIx + 1 + due.length, pending := s.pending ++ freeOrder (s.freeIx + 1) due }

end Sys2Proof.Machine
end

