-- ==== Sys2Proof/Machine/Dispatch.lean ====
section
/-! DEFINITION. The effect of one command: one arm per constructor of `Instr`, each a direct call of
the command's meaning. -/

namespace Sys2Proof.Machine

def exec (i : Instr) (s : State) : Host.Outcome State Fault Refusal :=
  match i with
  | .resetN => Sys2Proof.Machine.execResetN s
  | .initializationComplete => Sys2Proof.Machine.execInitializationComplete s
  | .controlFrameReceived f => Sys2Proof.Machine.execControlFrameReceived f s
  | .frameDiscarded l d => Sys2Proof.Machine.execFrameDiscarded l d s
  | .csNRaisedMidFrame => Sys2Proof.Machine.execCsNRaisedMidFrame s
  | .badType => Sys2Proof.Machine.execBadType s
  | .replySent => Sys2Proof.Machine.execReplySent s
  | .noticeSent => Sys2Proof.Machine.execNoticeSent s
  | .configurePort => Sys2Proof.Machine.execConfigurePort s
  | .loadRates => Sys2Proof.Machine.execLoadRates s
  | .setWeights => Sys2Proof.Machine.execSetWeights s
  | .setMonitor => Sys2Proof.Machine.execSetMonitor s
  | .setLifetimes => Sys2Proof.Machine.execSetLifetimes s
  | .startPort => Sys2Proof.Machine.execStartPort s
  | .stopPort => Sys2Proof.Machine.execStopPort s
  | .admitStation => Sys2Proof.Machine.execAdmit s
  | .update => Sys2Proof.Machine.execUpdate s
  | .depart => Sys2Proof.Machine.execDepart s
  | .queryStation => Sys2Proof.Machine.execQueryStation s
  | .enqueue => Sys2Proof.Machine.execEnqueue s
  | .flush => Sys2Proof.Machine.execFlush s
  | .status => Sys2Proof.Machine.execStatus s
  | .resetPart => Sys2Proof.Machine.execResetPart s
  | .resetPartTakesEffect => Sys2Proof.Machine.execResetPartTakesEffect s
  | .hello p depth => Sys2Proof.Machine.execHello p depth s
  | .outcome p o => Sys2Proof.Machine.execOutcome p o s
  | .ulOutcome p o => Sys2Proof.Machine.execUlOutcome p o s
  | .demand p assoc bytes => Sys2Proof.Machine.execDemand p assoc bytes s
  | .psEventDoze p assoc => Sys2Proof.Machine.execPsEventDoze p assoc s
  | .psEventWake p assoc => Sys2Proof.Machine.execPsEventWake p assoc s
  | .psEventTrigger p assoc => Sys2Proof.Machine.execPsEventTrigger p assoc s
  | .psEventDiscarded p assoc kind => Sys2Proof.Machine.execPsEventDiscarded p assoc kind s
  | .hold p reason => Sys2Proof.Machine.execHold p reason s
  | .resume p => Sys2Proof.Machine.execResume p s
  | .radioRecordDiscarded p type body => Sys2Proof.Machine.execRadioRecordDiscarded p type body s
  | .grantTimeout p number => Sys2Proof.Machine.execGrantTimeout p number s
  | .epochExpiry p => Sys2Proof.Machine.execEpochExpiry p s
  | .resumeTimerExpiry p => Sys2Proof.Machine.execResumeTimerExpiry p s
  | .holdTimerExpiry p => Sys2Proof.Machine.execHoldTimerExpiry p s
  | .serviceDeadline station => Sys2Proof.Machine.execServiceDeadline station s
  | .coalescingTimerExpiry => Sys2Proof.Machine.execCoalescingTimerExpiry s
  | .huntByteSkipped l b => Sys2Proof.Machine.execHuntByteSkipped l b s

end Sys2Proof.Machine
end

