-- ==== Sys2Proof/Safety.lean ====
section
/-! DEFINITION. What counts as a sound state of the part, in the terms the statements use, and the
readings of a state that the statements speak of. -/

namespace Sys2Proof.Machine

/-! ### Ports -/

/-- A sound port: the rules that tie a port's items together. -/
structure Port.Legal (q : Port) : Prop where
  /-- R85: the epoch timer runs in RUNNING, SUSPENDED and DRAINING, and only there. -/
  epoch : q.epochTimer.isSome = q.state.live
  /-- R80, R81: a suspension reason stands exactly while the port is SUSPENDED. -/
  reason : q.suspendReason ≠ .none ↔ q.state = .suspended
  /-- R82: the resume timer is armed exactly under an examination limit. -/
  resume : q.resumeTimer.isSome = decide (q.suspendReason = .examinationLimit)
  /-- R109: the hold flag is clear in ABSENT. -/
  absentHold : q.state = .absent → q.hold = false
  /-- R129, R131: without a hold there is no hold reason and no hold timer. -/
  holdOff : q.hold = false → q.holdReason = .none ∧ q.holdTimer = none
  /-- R109: the window depth lies within 1 to 4. -/
  depth : 1 ≤ q.depth ∧ q.depth ≤ 4
  /-- R117: the in-flight count never exceeds the window depth. -/
  room : q.inFlight.length ≤ q.depth
  /-- R117: nothing is in flight while the port is ABSENT or STOPPED. -/
  empty : q.state.live = false → q.inFlight = []
  /-- R84: the budget remaining lies within the full budget. -/
  budget : q.budget ≤ fullBudget q.params
  /-- R78: the downlink-since-uplink count saturates at 15. -/
  sinceUplink : q.sinceUplink ≤ 15

/-- No station stands twice in a rotation or in the Traffic Indication Set (R64, R162). -/
structure Port.ListsOnce (q : Port) : Prop where
  main : q.mainRot.Nodup
  exp  : q.expRot.Nodup
  ul   : q.ulRot.Nodup
  tis  : q.tis.Nodup

/-- The counts of a port within 16 bits (R133, R151, R183). -/
structure Port.CountsBounded (q : Port) : Prop where
  grantTimeouts     : q.grantTimeouts ≤ 65535
  unmatchedOutcomes : q.unmatchedOutcomes ≤ 65535
  portLosses        : q.portLosses ≤ 65535
  radioRestarts     : q.radioRestarts ≤ 65535
  holdStalls        : q.holdStalls ≤ 65535
  resultAnomalies   : q.resultAnomalies ≤ 65535
  rateIgnored       : q.rateIgnored ≤ 65535
  badFrames         : q.badFrames ≤ 65535
  discarded         : q.discarded ≤ 65535

/-- The port's tables are in their canonical form. -/
structure Port.Canonical (q : Port) : Prop where
  rates    : Table.wf RateEntry.disabledEntry q.rates
  assocMap : Table.wf none q.assocMap

/-! ### The Control Link -/

/-- The queues of the Control Link within their bounds (R147, R179, R182) and its counts within 16 bits
(R183); a record partly clocked out still waits (R180). -/
structure ControlLink.Bounded (c : ControlLink) : Prop where
  inbound     : c.inbound.length ≤ 4
  notices     : c.notices.length ≤ 64
  completions : c.completionCount ≤ 48
  badFrames   : c.badFrames ≤ 65535
  overruns    : c.overruns ≤ 65535
  sending     : ∀ x, c.sending = some x → match x.what with
    | .reply => c.reply ≠ none
    | .notice => c.notices ≠ []

/-! ### The whole part -/

/-- Every port is sound. -/
def State.PortsLegal (s : State) : Prop := ∀ p, (s.port p).Legal

/-- Every rotation and Traffic Indication Set holds each station once. -/
def State.ListsOnce (s : State) : Prop := ∀ p, (s.port p).ListsOnce

/-- The Control Link's queues and counts, and every port's counts, are within their bounds. -/
def State.Bounded (s : State) : Prop := s.cli.Bounded ∧ ∀ p, (s.port p).CountsBounded

/-- Every table is in its canonical form, so that equal contents are equal data. -/
structure State.Canonical (s : State) : Prop where
  stations : Table.wf Station.vacantRecord s.stations
  slots    : Table.wf Slot.freeRecord s.slots
  weights  : Table.wf weightDefault s.weights
  ports    : ∀ p, (s.port p).Canonical

/-- Every DL and UL balance lies within its range (R66). -/
def State.BalancesInRange (s : State) : Prop :=
  ∀ i, -32768 ≤ (s.station i).dlBalance ∧ (s.station i).dlBalance ≤ 32767 ∧
    -32768 ≤ (s.station i).ulBalance ∧ (s.station i).ulBalance ≤ 32767

/-- A station outside a direction's rotation of its port holds a balance of 0 or less in that direction
(R66, R95). -/
def State.DebtsOutside (s : State) : Prop :=
  ∀ i, (i ∉ (s.port (s.station i).port).mainRot → (s.station i).dlBalance ≤ 0) ∧
    (i ∉ (s.port (s.station i).port).ulRot → (s.station i).ulBalance ≤ 0)

/-- A station's holding never exceeds its queue cap (R25). -/
def State.WithinCaps (s : State) : Prop := ∀ i, (s.station i).holding ≤ (s.station i).queueCap

/-! ### What the statements read -/

/-- A request of a type waits at the head of the inbound queue, to be handled by its owner: no reply
waits, and initialization is over (R179, R186). -/
structure State.Waits (s : State) (type tag : Byte) (body : List Byte) : Prop where
  head  : s.cli.inbound.head? = some ⟨type, tag, body⟩
  reply : s.cli.reply = none
  ready : s.init.active = false

/-- The state with a reply formed and nothing else changed. -/
def State.replied (s : State) (type tag : Byte) (code : ReplyCode) (fields : ReplyFields) : State :=
  { s with cli := { s.cli with
      reply := some ⟨type, tag, code, fields⟩ } }

/-- The bad-frame count of a link. -/
def State.badFramesOf (s : State) : Link → Nat
  | .control => s.cli.badFrames
  | .radio p => (s.port p).badFrames

/-- The receiver of a link has counted a byte of its present hunt (R177). -/
def State.huntCountedOf (s : State) : Link → Bool
  | .control => s.cli.huntCounted
  | .radio p => (s.port p).huntCounted

/-- The Radio Link on which a command's record arrives; `none` for a command no radio sends (R120). -/
def radioOf : Instr → Option PortNo
  | .hello p _ => some p
  | .outcome p _ => some p
  | .ulOutcome p _ => some p
  | .demand p _ _ => some p
  | .psEventDoze p _ => some p
  | .psEventWake p _ => some p
  | .psEventTrigger p _ => some p
  | .psEventDiscarded p _ _ => some p
  | .hold p _ => some p
  | .resume p => some p
  | .radioRecordDiscarded p _ _ => some p
  | _ => none

/-- The fifteen requests and the type bytes of their records (section 10.5). -/
def requests : List (Instr × Byte) :=
  [(.configurePort, 0x01), (.loadRates, 0x02), (.setWeights, 0x03), (.setMonitor, 0x04),
    (.setLifetimes, 0x05), (.startPort, 0x06), (.stopPort, 0x07), (.admitStation, 0x10),
    (.update, 0x11), (.depart, 0x12), (.queryStation, 0x13), (.enqueue, 0x20), (.flush, 0x21),
    (.status, 0x30), (.resetPart, 0x31)]

/-- Slots may join the Done List without a COMPLETION notice being formed: the list stays below 16 and
the coalescing timer has not expired (R147). -/
structure State.Quiet (s : State) (joining : Nat) : Prop where
  short   : s.done.length + joining < 16
  timer   : s.coalTimer ≠ .expired
  patient : 0 < s.lifetimes.coalescing

/-! ### Two states side by side -/

/-- The settings, the time base, the state of initialization and the queue of commands stand. -/
structure State.SameParts (s t : State) : Prop where
  resetLow  : t.resetLow = s.resetLow
  clock     : t.clock = s.clock
  init      : t.init = s.init
  lifetimes : t.lifetimes = s.lifetimes
  weights   : t.weights = s.weights
  monitor   : t.monitor = s.monitor
  freeIx    : t.freeIx = s.freeIx
  pending   : t.pending = s.pending

/-- The Descriptor Pool and the Done List stand: every slot, the free stack, the list, its timer. -/
structure State.SamePool (s t : State) : Prop where
  slots     : ∀ k, t.slot k = s.slot k
  freeStack : t.freeStack = s.freeStack
  done      : t.done = s.done
  coalTimer : t.coalTimer = s.coalTimer

/-- Every station but `i` and every port but `p` stand. -/
structure State.SameOthers (s t : State) (i : Nat) (p : PortNo) : Prop where
  stations : ∀ j, j ≠ i → t.station j = s.station j
  ports    : ∀ q, q ≠ p → t.port q = s.port q

/-- A notice joins the tail of the notice queue with the loss-pending marker, which is then cleared
(R182). -/
def ControlLink.noticed (c : ControlLink) (b : NoticeBody) : ControlLink :=
  { c with notices := c.notices ++ [⟨c.lossPending, b⟩], lossPending := false }

/-- The Control Link after a notice that is no COMPLETION: placed, or with 64 waiting dropped and the
loss marked (R182). -/
def ControlLink.placed (c : ControlLink) (b : NoticeBody) : ControlLink :=
  if c.notices.length < 64 then c.noticed b else { c with lossPending := true }

/-- The Control Link after several such notices, in order. -/
def ControlLink.placedAll (c : ControlLink) (bodies : List NoticeBody) : ControlLink :=
  bodies.foldl ControlLink.placed c

/-- The Control Link with a reply formed. -/
def ControlLink.answered (c : ControlLink) (type tag : Byte) (code : ReplyCode)
    (fields : ReplyFields) : ControlLink :=
  { c with reply := some ⟨type, tag, code, fields⟩ }

/-- The coalescing timer as a slot joins an empty list: it runs, and under a coalescing time of 0 it expires
at once (R146). -/
def State.startedTimer (s : State) : CoalTimer :=
  if s.lifetimes.coalescing = 0 then .expired else .running

/-- The slots `gone` become DONE with one status and join the Done List in order, at the present
microsecond; nothing is reported yet, and the coalescing timer starts if the list was empty (R40, R145,
R146). -/
structure State.Finishes (s t : State) (gone : List Nat) (status : CompletionStatus) : Prop where
  slots     : ∀ k, t.slot k =
    if k ∈ gone then { s.slot k with state := .done, status := status } else s.slot k
  freeStack : t.freeStack = s.freeStack
  done      : t.done = s.done ++ gone.map fun k => ⟨k, s.clock.us⟩
  coalTimer : t.coalTimer = if s.done = [] ∧ gone ≠ [] then s.startedTimer else s.coalTimer

/-! ### Departures and completions (R16, R17, R148) -/

/-- Nothing of a DEPARTING station is outstanding but an uplink window in flight (R16; that its downlink
grant must have ended too is assumption 10). -/
def Station.awaitsWindow (r : Station) : Bool :=
  r.state == .departing && r.holding == 0 && r.unreported == 0 && !r.dlInFlight

/-- The stations whose departure the ends of these windows complete, in the order in which they are tested
(R123 step 4). -/
def State.departuresAt (s : State) (invited : List Nat) : List Nat :=
  invited.filter fun i => (s.station i).awaitsWindow

/-- The Control Link after a DEPART_DONE for each of these stations, in order (R17). -/
def ControlLink.departed (c : ControlLink) (gone : List Nat) : ControlLink :=
  c.placedAll (gone.map .departDone)

/-- The port's map once these stations' departures are complete (R3, R17). -/
def State.Unmapped (s t : State) (gone : List Nat) : Prop :=
  ∀ p a, (t.port p).mapped a =
    if ∃ i ∈ gone, (s.station i).port = p ∧ (s.station i).assoc = a then none else (s.port p).mapped a

/-- The record of an owner of some of the slots a COMPLETION notice reports (R41). -/
def State.reportedRecord (s : State) (batch : List Nat) (i : Nat) : Station :=
  { s.station i with
    unreported := (s.station i).unreported -
      (batch.filter fun k => (s.slot k).station == i).length }

/-- The stations whose departure a COMPLETION notice of these slots completes, in the order of their first
entries (R148 step 5). -/
def State.departuresWith (s : State) (batch : List Nat) : List Nat :=
  ((batch.map fun k => (s.slot k).station).eraseDups).filter fun i =>
    (s.reportedRecord batch i).awaitsWindow && !(s.station i).ulInFlight

/-- One COMPLETION notice is formed from the slots `batch` at the head of the Done List (R148): an entry
for each in order; the slots FREE and on the free stack, the last entry's on top; their owners' unreported
counts lowered; the departures that this completes; and the coalescing timer set from the new head. -/
structure State.Reports (s t : State) (batch : List Nat) : Prop where
  parts     : s.SameParts t
  slots     : ∀ k, t.slot k =
    if k ∈ batch then ⟨.free, 0, 0, .expedited, 0, false, 0, .delivered, true⟩ else s.slot k
  freeStack : t.freeStack = batch.reverse ++ s.freeStack
  done      : t.done = s.done.drop batch.length
  coalTimer : t.coalTimer = match t.done with
    | [] => .stopped
    | d :: _ => if s.lifetimes.coalescing ≤ (s.clock.us - d.joined).toNat then .expired else .running
  stations  : ∀ i, t.station i =
    if i ∈ s.departuresWith batch then Station.vacantRecord else s.reportedRecord batch i
  ports     : ∀ p, t.port p = { s.port p with assocMap := (t.port p).assocMap }
  maps      : s.Unmapped t (s.departuresWith batch)
  cli       : t.cli = (s.cli.noticed (.completion (batch.map fun k =>
    ⟨(s.slot k).handle, (s.slot k).station, (s.slot k).status⟩))).departed (s.departuresWith batch)

/-- A COMPLETION notice is formed: the notice queue has room for a completion, and 16 slots wait or the timer
has expired on a list that is not empty (R147). -/
def State.mayForm (s : State) : Prop :=
  (s.cli.notices.filter fun n => n.body.isCompletion).length < 48 ∧ s.cli.notices.length < 64 ∧
    (16 ≤ s.done.length ∨ s.done ≠ [] ∧ s.coalTimer = .expired)

/-- COMPLETION notices are formed from `s` one after another, each of the lesser of 16 slots and the whole
list, while and only while one is to be formed; `t` is the state after the last (R147, R148). -/
inductive State.Completes : State → State → Prop
  | rest {s : State} : ¬ s.mayForm → s.Completes s
  | form {s u t : State} : s.mayForm → s.Reports u ((s.done.take 16).map DoneEntry.slot) →
      u.Completes t → s.Completes t

/-! ### The Retry Monitor (R169 to R172) -/

/-- A station's record once one settled result is fed to the monitor, and the STATION_HEALTH notices placed so
far: UNSENT feeds nothing; any other result raises the attempts, a FAILED one the failures (R169); at the
window M the health follows the thresholds (R170), the consecutive-degraded count rises or is 0 (R171), the
counters are 0, and a change of health adds its notice, with the failures of the closing window (R172). -/
def Station.fed (m : MonitorSettings) (i : Nat) (x : Station × List NoticeBody) (res : Result) :
    Station × List NoticeBody :=
  let r := x.1
  let attempts := r.attempts + 1
  let failures := if res = .failed then r.failures + 1 else r.failures
  if res = .unsent then x
  else if attempts < m.window then ({ r with attempts, failures }, x.2)
  else
    let health := match r.health with
      | .healthy => if m.degrade ≤ failures then Health.degraded else .healthy
      | .degraded => if failures ≤ m.recover then .healthy else .degraded
    ({ r with
        health, attempts := 0, failures := 0
        degradedWindows := match health with
          | .degraded => min 255 (r.degradedWindows + 1)
          | .healthy => 0 },
      if health = r.health then x.2 else x.2 ++ [.stationHealth i health failures])

/-- A station's record and the notices once a grant's settled results are fed in slot-list order (R143). -/
def Station.fedAll (m : MonitorSettings) (i : Nat) (r : Station) (results : List Result) :
    Station × List NoticeBody :=
  results.foldl (Station.fed m i) (r, [])

/-! ### Stations on their ports -/

/-- A number names an ACTIVE station of the port its record arrives for, outside initialization
(R4). -/
structure State.Names (s : State) (p : PortNo) (assoc i : Nat) : Prop where
  ready  : s.init.active = false
  mapped : (s.port p).mapped assoc = some i
  active : (s.station i).state = .active
  port   : (s.station i).port = p

/-- The station holds a QUEUED frame in either tier. -/
abbrev Station.hasQueued (r : Station) : Prop := r.expFifo ≠ [] ∨ r.stdFifo ≠ []

/-- The record of a member that leaves the main rotation (R66); any other as it is. -/
def Station.leftMain (r : Station) (member : Prop) [Decidable member] : Station :=
  if member then { r with mainCredited := false, dlBalance := min 0 r.dlBalance } else r

/-- The record of a member that leaves the uplink rotation (R95); any other as it is. -/
def Station.leftUl (r : Station) (member : Prop) [Decidable member] : Station :=
  if member then { r with ulCredited := false, ulBalance := min 0 r.ulBalance } else r

/-- The port with a station out of its main and expedited rotations. -/
def Port.withoutDl (q : Port) (i : Nat) : Port :=
  { q with mainRot := q.mainRot.filter (· != i), expRot := q.expRot.filter (· != i) }

/-- The port with a station out of its uplink rotation. -/
def Port.withoutUl (q : Port) (i : Nat) : Port := { q with ulRot := q.ulRot.filter (· != i) }

/-- The port with a station in its Traffic Indication Set or out of it, and the TIM_UPDATE a change of
the set hands to the radio (R162, R163). -/
def Port.fitTis (q : Port) (i assoc : Nat) (member : Prop) [Decidable member] : Port :=
  if i ∈ q.tis ↔ member then q
  else { q with
    tis := if member then q.tis.orderedInsert (· ≤ ·) i else q.tis.filter (· != i)
    outbound := if q.state.live then
        q.outbound ++ [.timUpdate (if member then .add else .remove) assoc]
      else q.outbound }

/-- The port after a wake cause: a SUSPENDED port is RUNNING, its reason none and its resume timer
disarmed (R81, R82); a port in another state is as it was. -/
def Port.woken (q : Port) (cause : Prop) [Decidable cause] : Port :=
  if cause ∧ q.state = .suspended then
    { q with state := .running, suspendReason := .none, resumeTimer := none }
  else q

/-- The port whose drain is complete (R114, R115): STOPPED, its epoch timer stopped, its resume timer disarmed,
its suspension reason none. -/
def Port.drained (q : Port) : Port :=
  { q with state := .stopped, epochTimer := none, resumeTimer := none, suspendReason := .none }

/-- R49: `c` is the effective code of a station on its port: the code it names, if enabled, else the highest
enabled code below it, else the lowest above it. -/
def Port.IsEffective (q : Port) (r : Station) (c : Nat) : Prop :=
  let enabled (d : Nat) : Prop := 1 ≤ d ∧ d ≤ 31 ∧ (q.rate d).enabled = true
  let named := if r.rateMode = 0 then r.rateCode else r.rateMode
  enabled c ∧ (c = named ∨ ¬ enabled named ∧
    (c < named ∧ (∀ d, enabled d → d < named → d ≤ c) ∨
      (∀ d ≤ named, ¬ enabled d) ∧ ∀ d, enabled d → c ≤ d))

/-! ### Grants -/

/-- The record of a station of a lost or restarted port: `frames` slots of its own are reported LOST, its
flags are clear, and no service period goes on (R122, R123, R161). -/
def Station.afterLoss (r : Station) (member : Prop) [Decidable member] (frames : Nat) : Station :=
  { (if r.ps = .service then r.leftMain member else r) with
    holding := r.holding - frames
    unreported := r.unreported + frames
    dlInFlight := false
    ulInFlight := false
    ps := if r.ps = .service then .doze else r.ps
    allowance := if r.ps = .service then 0 else r.allowance
    deadline := if r.ps = .service then 0 else r.deadline }

/-- The entry is a window that invites station `i`. -/
def InFlight.invites (e : InFlight) (i : Nat) : Bool :=
  match e.work with
  | .dl .. => false
  | .ul invitations _ => (invitations.map Invitation.station).contains i

/-- The stations a window invites, in invitation-list order; a DL entry invites none. -/
def InFlight.invited (e : InFlight) : List Nat :=
  match e.work with
  | .dl .. => []
  | .ul invitations _ => invitations.map Invitation.station

/-- The slot list of a DL entry; a window has none. -/
def InFlight.slots (e : InFlight) : List Nat :=
  match e.work with
  | .dl _ _ slots .. => slots
  | .ul .. => []

/-- The IN_FLIGHT slots of station `i`, as its grants list them. -/
def State.grantSlots (s : State) (i : Nat) : List Nat :=
  ((s.port0.inFlight ++ s.port1.inFlight).filter (·.isDlOf i)).flatMap InFlight.slots

/-- The entries for no station but `i` are as they were, and its DL entry has the given flags. -/
def entriesWith (entries : List InFlight) (i : Nat) (clearEos revoked : Bool) : List InFlight :=
  entries.map fun e =>
    match e.work with
    | .dl station tier slots estimate eos rev =>
      if station = i then
        { e with work := .dl station tier slots estimate (eos && !clearEos) (rev || revoked) }
      else e
    | .ul .. => e

/-! ### Frames that end one by one, and what follows -/

/-- Slot `k` of station `i` becomes DONE and joins the Done List (R22, R25, R145); besides the two counts the
station's record is `r`, and its port is `q`. -/
structure State.Ends (s t : State) (i k : Nat) (status : CompletionStatus) (r : Station) (q : Port) :
    Prop where
  parts     : s.SameParts t
  others    : s.SameOthers t i (s.station i).port
  cli       : t.cli = s.cli
  slots     : ∀ j, t.slot j =
    if j = k then { s.slot j with state := .done, status := status } else s.slot j
  freeStack : t.freeStack = s.freeStack
  done      : t.done = s.done ++ [⟨k, s.clock.us⟩]
  coalTimer : t.coalTimer = if s.done = [] then s.startedTimer else s.coalTimer
  station   : t.station i = { r with holding := r.holding - 1, unreported := r.unreported + 1 }
  port      : t.port (s.station i).port = q

/-- A frame on the air ends (R40): station, slot and status. -/
def State.EndsOnAir (s t : State) (x : Nat × Nat × CompletionStatus) : Prop :=
  s.Ends t x.1 x.2.1 x.2.2 (s.station x.1) (s.port (s.station x.1).port)

/-- The head of a queue ends (R33, R36): station, tier and slot. The station leaves the expedited rotation with
its last EXPEDITED frame, and with its last frame of all the main rotation and the Traffic Indication Set
(R65, R66, R163). -/
def State.EndsHead (status : CompletionStatus) (s t : State) (x : Nat × Tier × Nat) : Prop :=
  let i := x.1
  let r := s.station i
  let q := s.port r.port
  let exp := if x.2.1 = .expedited then r.expFifo.tail else r.expFifo
  let std := if x.2.1 = .standard then r.stdFifo.tail else r.stdFifo
  let emptied := exp = [] ∧ std = []
  let q1 : Port := { q with
    expRot := if x.2.1 = .expedited ∧ exp = [] then q.expRot.filter (· != i) else q.expRot
    mainRot := if emptied then q.mainRot.filter (· != i) else q.mainRot }
  s.Ends t i x.2.2 status
    { r.leftMain (emptied ∧ i ∈ q.mainRot) with expFifo := exp, stdFifo := std }
    (if emptied then q1.fitTis i r.assoc False else q1)

/-- One frame after another ends, by `ends`, and after each the COMPLETION notices that are then to be formed
are (R147): from `s` to `t`. -/
def State.Each {α : Type} (ends : State → State → α → Prop) : List α → State → State → Prop
  | [], s, t => t = s
  | x :: xs, s, t => ∃ u v, ends s u x ∧ u.Completes v ∧ State.Each ends xs v t

/-- A service period that has run dry ends (R160): DOZE, out of every rotation and of the Traffic Indication
Set, and a SERVICE_EMPTY unless the port is ABSENT (R166). -/
structure State.RunsDry (s t : State) (i : Nat) : Prop where
  parts   : s.SameParts t
  pool    : s.SamePool t
  others  : s.SameOthers t i (s.station i).port
  cli     : t.cli = s.cli
  station : t.station i =
    { ((s.station i).leftMain (i ∈ (s.port (s.station i).port).mainRot)).leftUl
        (i ∈ (s.port (s.station i).port).ulRot) with ps := .doze, allowance := 0, deadline := 0 }
  port    : t.port (s.station i).port =
    let q := s.port (s.station i).port
    let q1 := { (q.withoutDl i).withoutUl i with
      inFlight := entriesWith q.inFlight i true false : Port }.fitTis i (s.station i).assoc False
    { q1 with outbound := if q.state = .absent then q1.outbound
      else q1.outbound ++ [.serviceEmpty (s.station i).assoc] }

/-- Decisions of port `p` follow one another from `s` while, and only while, the port has an opportunity; `t`
is the state after the last (R116). -/
def State.Decides (s t : State) (p : PortNo) : Prop :=
  ∃ n, t = (fun x => x.decision p)^[n] s ∧
    (∀ m < n, (((fun x => x.decision p)^[m] s).port p).hasOpportunity = true) ∧
    (t.port p).hasOpportunity = false

/-! ### The part's books: what the tables of the part say of one another -/

/-- R64, R93: a rotation of a port holds exactly the stations bound to the port that meet its membership
condition. -/
structure State.RotationsAgree (s : State) : Prop where
  main : ∀ p i, i ∈ (s.port p).mainRot ↔ (s.station i).port = p ∧ (s.station i).state = .active ∧
    (s.station i).ps ≠ .doze ∧ (s.station i).hasQueued
  exp : ∀ p i, i ∈ (s.port p).expRot ↔ (s.station i).port = p ∧ (s.station i).state = .active ∧
    (s.station i).ps ≠ .doze ∧ (s.station i).expFifo ≠ []
  ul : ∀ p i, i ∈ (s.port p).ulRot ↔ (s.station i).port = p ∧ (s.station i).state = .active ∧
    (s.station i).ps = .awake ∧ 0 < (s.station i).demand

/-- R162: the Traffic Indication Set of a port is exactly the set of its stations in DOZE or SERVICE that
hold a QUEUED frame. -/
def State.IndicationsAgree (s : State) : Prop :=
  ∀ p i, i ∈ (s.port p).tis ↔ (s.station i).port = p ∧ (s.station i).ps ≠ .awake ∧
    (s.station i).hasQueued

/-- R3: the association map of a port holds exactly its stations that are not VACANT, each under its own
number. -/
def State.MapsAgree (s : State) : Prop :=
  ∀ p a i, (s.port p).mapped a = some i ↔ (s.station i).state ≠ .vacant ∧ (s.station i).port = p ∧
    (s.station i).assoc = a

/-- R117: numbers are distinct, a station has at most one downlink grant and one window in flight, its
flags say which it has, an entry's stations are bound to the entry's port, and no entry is empty or
invites a station twice. -/
structure State.GrantsAgree (s : State) : Prop where
  numbers : ∀ p, ((s.port p).inFlight.map InFlight.number).Nodup
  bound   : ∀ p, ∀ e ∈ (s.port p).inFlight, ∀ i, e.isDlOf i = true ∨ e.invites i = true →
    (s.station i).state ≠ .vacant ∧ (s.station i).port = p
  dl      : ∀ i, (s.station i).dlInFlight = true ↔ ∃ p, ∃ e ∈ (s.port p).inFlight, e.isDlOf i = true
  ul      : ∀ i, (s.station i).ulInFlight = true ↔ ∃ p, ∃ e ∈ (s.port p).inFlight, e.invites i = true
  oneDl   : ∀ p i, ((s.port p).inFlight.filter (·.isDlOf i)).length ≤ 1
  oneUl   : ∀ p i, ((s.port p).inFlight.filter (·.invites i)).length ≤ 1
  filled  : ∀ p, ∀ e ∈ (s.port p).inFlight, e.slots ≠ [] ∨ e.invited ≠ []
  once    : ∀ p, ∀ e ∈ (s.port p).inFlight, e.invited.Nodup

/-- R21 to R25, R145: every slot is in exactly one place, the place its state and its fields name; a FREE
slot holds its reset values; and the holding and unreported counts count the slots they speak of. -/
structure State.PoolAgrees (s : State) : Prop where
  places : (s.freeStack ++ s.done.map DoneEntry.slot ++ (List.range 512).flatMap fun i =>
    (s.station i).expFifo ++ (s.station i).stdFifo ++ s.grantSlots i).Perm (List.range 4096)
  free : ∀ k ∈ s.freeStack, s.slot k = Slot.freeRecord ∨ s.slot k = Slot.reported
  linked : ∀ k, (s.slot k).state ≠ .free → (s.slot k).linked = true
  queued : ∀ i t, ∀ k ∈ (s.station i).fifo t,
    (s.slot k).state = .queued ∧ (s.slot k).station = i ∧ (s.slot k).tier = t
  inFlight : ∀ p, ∀ e ∈ (s.port p).inFlight, ∀ k ∈ e.slots,
    (s.slot k).state = .inFlight ∧ e.isDlOf (s.slot k).station = true
  done : ∀ d ∈ s.done, (s.slot d.slot).state = .done
  holding : ∀ i, (s.station i).holding = (s.station i).queuedCount + (s.grantSlots i).length
  unreported : ∀ i, (s.station i).unreported =
    (s.done.filter fun d => (s.slot d.slot).station == i).length

/-- R1, R13, R17: a VACANT record holds its vacant values, a DEPARTING station is AWAKE with no frame
queued and no demand, and only the 512 records are ever bound. -/
structure State.IdleAgrees (s : State) : Prop where
  vacant    : ∀ i, (s.station i).state = .vacant → s.station i = Station.vacantRecord
  departing : ∀ i, (s.station i).state = .departing → (s.station i).ps = .awake ∧
    (s.station i).expFifo = [] ∧ (s.station i).stdFifo = [] ∧ (s.station i).demand = 0
  index     : ∀ i, 511 < i → (s.station i).state = .vacant

/-- The part's books agree. They do also while a decision is being made. -/
structure State.Books (s : State) : Prop where
  legal       : s.PortsLegal
  once        : s.ListsOnce
  rotations   : s.RotationsAgree
  indications : s.IndicationsAgree
  maps        : s.MapsAgree
  grants      : s.GrantsAgree
  pool        : s.PoolAgrees
  idle        : s.IdleAgrees

/-- R116: no port is left with an opportunity: a RUNNING port at rest is held or its table is full. -/
def State.AtRest (s : State) : Prop := ∀ p, (s.port p).hasOpportunity = false

/-- Between two commands the books agree and no port has an opportunity. -/
structure State.Coherent (s : State) : Prop extends s.Books where
  rest : s.AtRest

end Sys2Proof.Machine
end

