-- ==== Sys2Proof/WellFormed.lean ====
section
/-! DEFINITION. The commands whose operands the links can carry: a command that is not well formed
stands for nothing that can arrive. The meanings are total all the same. -/

namespace Sys2Proof

/-- A request as its layout in section 10.5 can carry it: every field fits its bytes. -/
abbrev AdmitReq.fits (r : AdmitReq) : Prop :=
  r.station < 65536 ∧ r.port < 256 ∧ r.assoc < 65536 ∧ r.cls < 256 ∧ r.rateMode < 256 ∧
    r.rateCode < 256 ∧ r.queueCap < 65536 ∧ r.frameLimit < 256

abbrev UpdateReq.fits (r : UpdateReq) : Prop :=
  r.station < 65536 ∧ r.cls < 256 ∧ r.rateMode < 256 ∧ r.queueCap < 65536 ∧ r.frameLimit < 256

abbrev PortParams.fits (q : PortParams) : Prop :=
  q.dlQuantum < 65536 ∧ q.ulQuantum < 65536 ∧ q.airtimeCap < 65536 ∧ q.aggLimit < 256 ∧
    -128 ≤ q.trim ∧ q.trim ≤ 127 ∧ q.epochLength < 65536 ∧ q.expShare < 256 ∧ q.ulRatio < 256 ∧
    q.windowLength < 65536 ∧ q.ulMax < 256 ∧ q.grantTimeout < 256 ∧ q.holdLimit < 65536 ∧
    q.serviceTimeout < 256

abbrev ConfigureReq.fits (r : ConfigureReq) : Prop := r.port < 256 ∧ r.params.fits

abbrev RateEntry.fits (e : RateEntry) : Prop :=
  e.rate < 65536 ∧ e.grantOverhead < 65536 ∧ e.frameOverhead < 65536

abbrev LoadRatesReq.fits (r : LoadRatesReq) : Prop :=
  r.port < 256 ∧ r.first < 256 ∧ 1 ≤ r.entries.length ∧ r.entries.length ≤ 31 ∧
    ∀ e ∈ r.entries, e.fits

abbrev MonitorSettings.fits (m : MonitorSettings) : Prop :=
  m.window < 65536 ∧ m.degrade < 65536 ∧ m.recover < 65536 ∧ m.aggLimit < 256 ∧ m.percent < 256

abbrev Lifetimes.fits (l : Lifetimes) : Prop :=
  l.expedited < 65536 ∧ l.standard < 65536 ∧ l.coalescing < 65536

abbrev Descriptor.fits (d : Descriptor) : Prop := d.length < 65536

abbrev EnqueueReq.fits (r : EnqueueReq) : Prop :=
  r.station < 65536 ∧ 1 ≤ r.entries.length ∧ r.entries.length ≤ 16 ∧ ∀ d ∈ r.entries, d.fits

abbrev FlushReq.fits (r : FlushReq) : Prop := r.station < 65536

/-- The well-formed commands:
- a frame has a body of at most 1024 bytes (R176);
- a discarded frame is really damaged (R177);
- a skipped byte is not the sync byte (R177);
- an OUTCOME has at most 255 results, a UL_OUTCOME at most 92 entries (section 10.5);
- a radio record discarded by its framing is one no owner takes (R178);
- a service deadline names a station index (00_scope "Numbering of things"). -/
abbrev WellFormed : Instr → Prop
  | .controlFrameReceived f => f.body.length ≤ 1024
  | .frameDiscarded _ d => d.real = true
  | .huntByteSkipped _ b => b ≠ 0xA5
  | .outcome _ o => o.results.length ≤ 255
  | .ulOutcome _ o => o.entries.length ≤ 92
  | .radioRecordDiscarded p t b =>
    b.length ≤ 1024 ∧ decodeRadio p t b = .radioRecordDiscarded p t b
  | .serviceDeadline i => i ≤ 511
  | .resetN | .initializationComplete | .csNRaisedMidFrame | .badType | .replySent | .noticeSent
  | .configurePort | .loadRates | .setWeights | .setMonitor | .setLifetimes | .startPort | .stopPort
  | .admitStation | .update | .depart | .queryStation | .enqueue | .flush | .status | .resetPart
  | .resetPartTakesEffect | .hello _ _ | .demand _ _ _ | .psEventDoze _ _ | .psEventWake _ _
  | .psEventTrigger _ _ | .psEventDiscarded _ _ _ | .hold _ _ | .resume _ | .grantTimeout _ _
  | .epochExpiry _ | .resumeTimerExpiry _ | .holdTimerExpiry _ | .coalescingTimerExpiry => True

end Sys2Proof
end

