-- ==== Sys2Proof/Certificates/Slice0/Obligations.lean ====
section
/-! DEFINITION. The statements about the model that are to be proved or refuted, one definition each.
Next states are written out as the rules of spec/ give them, so that a statement of what a command does
is also the statement of what it leaves alone. Where a reading of the state is the model's own choice,
the docstring names the entry of the assumption log. -/

open Sys2Proof Sys2Proof.Machine

/-! ### The queue of commands and the time base -/

/-- With commands waiting, a step takes the one at the front, on the state with the rest of the queue.
That commands are taken whole, one after another, is how R71, R116 and R124 order events. -/
def Obligations.StepTakesTheFrontCommand : Prop :=
  ∀ (c : Instr) (rest : List Instr) (s : State), s.pending = c :: rest →
    step s = exec c { s with pending := rest }

/-- Every command completes: no fault and no refusal is ever answered. That no command, neither reset among
them, touches the queue of commands, the time base or the counter of free choices is the model's choice
(assumptions 2, 3 and 28). -/
def Obligations.EveryCommandCompletesOffTheQueue : Prop :=
  ∀ (c : Instr) (s : State), ∃ t, exec c s = .next t ∧ t.pending = s.pending ∧ t.clock = s.clock ∧
    t.freeIx = s.freeIx

/-- With nothing waiting one microsecond passes (the model's tick, assumption 2): the counts of the time
base and the timers move on, the hold timer on the millisecond ticks like the epoch timer (assumption 30);
a Radio Link's record in course of sending may go (assumption 5); the host may clock bytes of the record
the Control Link sends (assumption 8), which is the one partly clocked out or else a waiting reply before
the oldest notice (R180); and nothing else of the part changes. -/
def Obligations.IdleStepLetsOneMicrosecondPass : Prop :=
  ∀ s : State, s.pending = [] →
    let turn := match s.cli.sending with
      | some x => some x.what
      | none => if s.cli.reply ≠ none then some Outgoing.reply
        else if s.cli.notices ≠ [] then some .notice else none
    ∃ t, step s = .next t ∧
    t.clock.us = s.clock.us + 1 ∧
    (if 999 ≤ s.clock.usInMs then t.clock.ms = s.clock.ms + 1 ∧ t.clock.usInMs = 0
      else t.clock.ms = s.clock.ms ∧ t.clock.usInMs = s.clock.usInMs + 1) ∧
    t.init = { s.init with left := if s.init.active then s.init.left - 1 else s.init.left } ∧
    (∀ p, ∃ out, (out = (s.port p).outbound ∨ out = (s.port p).outbound.tail) ∧
      t.port p = { s.port p with
        resumeTimer := (s.port p).resumeTimer.map (· - 1)
        epochTimer := if 999 ≤ s.clock.usInMs then (s.port p).epochTimer.map (· - 1)
          else (s.port p).epochTimer
        holdTimer := if 999 ≤ s.clock.usInMs then (s.port p).holdTimer.map (· - 1)
          else (s.port p).holdTimer
        outbound := out }) ∧
    (t.cli = s.cli ∨ ∃ what n, turn = some what ∧ 0 < n ∧
      t.cli = { s.cli with sending := some ⟨what,
        min (s.cli.bytesGone + n) (s.cli.frameOut.length - 1)⟩ }) ∧
    t.resetLow = s.resetLow ∧ t.stations = s.stations ∧ t.slots = s.slots ∧
    t.freeStack = s.freeStack ∧ t.done = s.done ∧ t.coalTimer = s.coalTimer ∧
    t.lifetimes = s.lifetimes ∧ t.weights = s.weights ∧ t.monitor = s.monitor

/-- After an idle microsecond the waiting commands are exactly the timer events whose conditions hold: a timer
at 0 (R82, R86, R130), an entry whose age has reached its timeout (R124), a service deadline reached (R159),
the coalescing deadline passed (R146), and the end of initialization. Four things here are the model's choice:
that such events wait as commands from the tick on (assumption 2); their order, which is free (assumption 4);
that a service deadline is compared over half the range of a timestamp (PRESUMED, assumption 9); and that the
end of initialization comes due exactly when 1000 microseconds have passed since it began, where R186 gives
that as the limit alone (assumption 27). -/
def Obligations.DueTimerEventsJoinTheQueue : Prop :=
  ∀ s t : State, s.pending = [] → step s = .next t →
    (.initializationComplete ∈ t.pending ↔ t.init.active = true ∧ t.init.left = 0) ∧
    (∀ p, .resumeTimerExpiry p ∈ t.pending ↔ (t.port p).resumeTimer = some 0) ∧
    (∀ p, .holdTimerExpiry p ∈ t.pending ↔ (t.port p).holdTimer = some 0) ∧
    (∀ p, .epochExpiry p ∈ t.pending ↔ (t.port p).epochTimer = some 0) ∧
    (∀ p n, .grantTimeout p n ∈ t.pending ↔ ∃ e ∈ (t.port p).inFlight, e.number = n ∧
      (e.deadline - e.issueTime).toNat ≤ (t.clock.ms - e.issueTime).toNat) ∧
    (∀ i, .serviceDeadline i ∈ t.pending ↔ (t.station i).ps = .service ∧
      (t.clock.ms - (t.station i).deadline).toNat < 2147483648) ∧
    (.coalescingTimerExpiry ∈ t.pending ↔ t.coalTimer = .running ∧ ∃ d rest, t.done = d :: rest ∧
      t.lifetimes.coalescing ≤ (t.clock.us - d.joined).toNat) ∧
    (∀ c ∈ t.pending, c = .initializationComplete ∨ c = .coalescingTimerExpiry ∨
      (∃ i, c = .serviceDeadline i) ∨
      ∃ p, c = .resumeTimerExpiry p ∨ c = .holdTimerExpiry p ∨ c = .epochExpiry p ∨
        ∃ n, c = .grantTimeout p n)

/-! ### The wire (sections 10.1 and 10.5) -/

/-- Every request body is read back from its layout with every field at every value it can carry. -/
def Obligations.RequestBodiesReadBack : Prop :=
  (∀ r : ConfigureReq, r.fits → parseConfigure (encodeConfigure r) = some r) ∧
  (∀ r : LoadRatesReq, r.fits → parseLoadRates (encodeLoadRates r) = some r) ∧
  (∀ ws : List Nat, ws.length = 8 → (∀ w ∈ ws, w < 256) → parseWeights (encodeWeights ws) = some ws) ∧
  (∀ m : MonitorSettings, m.fits → parseMonitor (encodeMonitor m) = some m) ∧
  (∀ l : Lifetimes, l.fits → parseLifetimes (encodeLifetimes l) = some l) ∧
  (∀ n, n < 256 → parsePort (toLe 1 n) = some n) ∧
  (∀ r : AdmitReq, r.fits → parseAdmit (encodeAdmit r) = some r) ∧
  (∀ r : UpdateReq, r.fits → parseUpdate (encodeUpdate r) = some r) ∧
  (∀ n, n < 65536 → parseStation (toLe 2 n) = some n) ∧
  (∀ r : EnqueueReq, r.fits → parseEnqueue (encodeEnqueue r) = some r) ∧
  (∀ r : FlushReq, r.fits → parseFlush (encodeFlush r) = some r)

/-- Every record a radio can send, framed by its layout, is the command it stands for. A discarded
PS_EVENT whose kind is one of the three is the command of that kind, which R153 discards by the
station's state. -/
def Obligations.RadioRecordsReadBack : Prop :=
  ∀ (c : Instr) (p : PortNo) (type : Byte) (body : List Byte), WellFormed c → radioOf c = some p →
    (∀ q a k, c = .psEventDiscarded q a k → 2 < k.toNat) →
    encodeRadio c = some (type, body) → decodeRadio p type body = c ∧ body.length ≤ 1024

/-- A record framed with its check sequence is taken, and a frame with one body byte altered is not: it is
counted as a bad frame and has no other effect (R176, R177), but that its bytes carry bytes out like any
others (R180). How many of them are clocked since the last microsecond is free, one to all (assumption 8).
-/
def Obligations.AlteredFrameIsCountedNotTaken : Prop :=
  (∀ r : Record, r.body.length ≤ 1024 → r.frame.intact = true) ∧
  ∀ (f g : Frame) (k : Nat) (b : Byte) (s : State), f.intact = true →
    (∃ old, f.body[k]? = some old ∧ old ≠ b) → g = { f with body := f.body.set k b } →
    g.intact = false ∧
    ∃ n, 1 ≤ n ∧ n ≤ f.body.length + 7 ∧
      exec (.controlFrameReceived g) s = .next { s with cli := { s.cli with
        badFrames := min 65535 (s.cli.badFrames + 1)
        huntCounted := false
        sending := s.cli.sendingAfter n } }

/-! ### The Control Link (sections 10.2 to 10.4) -/

/-- An intact frame on the Control Link joins the tail of the inbound queue while it holds fewer than 4
records, and is counted as an overrun while it holds 4 (R179). Its bytes carry out as many of the record
being sent, or of the one whose turn it is, whatever the frame holds (R180); how many of them are clocked
since the last microsecond is free, one to all (assumption 8). -/
def Obligations.ReceivedRecordJoinsTheInboundQueue : Prop :=
  ∀ (f : Frame) (s : State), f.intact = true →
    ∃ n, 1 ≤ n ∧ n ≤ f.body.length + 7 ∧
    (s.cli.inbound.length < 4 → exec (.controlFrameReceived f) s = .next { s with cli := { s.cli with
      inbound := s.cli.inbound ++ [⟨f.type, f.tag, f.body⟩]
      huntCounted := false
      sending := s.cli.sendingAfter n } }) ∧
    (4 ≤ s.cli.inbound.length → exec (.controlFrameReceived f) s = .next { s with cli := { s.cli with
      overruns := min 65535 (s.cli.overruns + 1)
      huntCounted := false
      sending := s.cli.sendingAfter n } })

/-- A damaged frame, and on the Control Link one cut by CS_N, raises the bad-frame count of its link by 1
and has no other effect; hunting then begins anew. The first byte skipped in a hunt is counted, the
further ones are not (R177). On the Control Link each byte clocked carries one out (R180): a skipped byte one;
a frame discarded as many as are clocked of it since the last microsecond, which is free, at least the last
byte collected; one that CS_N cuts any number short of the longest frame's (assumption 8). -/
def Obligations.DamageAndHuntingAreCountedPerLink : Prop :=
  (∀ (d : Damage) (s : State), d.real = true →
    ∃ n, 1 ≤ n ∧
    (n ≤ match d with
      | .tooLong _ => 4
      | .badCheck f => if f.body.length ≤ 1024 then f.body.length + 7 else 4) ∧
    exec (.frameDiscarded .control d) s = .next { s with cli := { s.cli with
      badFrames := min 65535 (s.cli.badFrames + 1), huntCounted := false
      sending := s.cli.sendingAfter n } }) ∧
  (∀ (p : PortNo) (d : Damage) (s : State), d.real = true →
    exec (.frameDiscarded (.radio p) d) s = .next (s.setPort p { s.port p with
      badFrames := min 65535 ((s.port p).badFrames + 1), huntCounted := false })) ∧
  (∀ s : State, ∃ n ≤ 1030, exec .csNRaisedMidFrame s = .next { s with cli := { s.cli with
    badFrames := min 65535 (s.cli.badFrames + 1), huntCounted := false
    sending := s.cli.sendingAfter n } }) ∧
  (∀ (b : Byte) (s : State), b ≠ 0xA5 →
    exec (.huntByteSkipped .control b) s = .next { s with cli := { s.cli with
      badFrames := if s.cli.huntCounted then s.cli.badFrames else min 65535 (s.cli.badFrames + 1)
      huntCounted := true
      sending := s.cli.sendingAfter 1 } }) ∧
  (∀ (p : PortNo) (b : Byte) (s : State), b ≠ 0xA5 →
    exec (.huntByteSkipped (.radio p) b) s = .next (if (s.port p).huntCounted then s else
      s.setPort p { s.port p with
        badFrames := min 65535 ((s.port p).badFrames + 1), huntCounted := true }))

/-- A record of a type that names no request is answered BAD_TYPE, with a reply of type 0xFF that
carries its tag, and nothing else changes (R178, R181). The model answers so during initialization too
(assumption 12). -/
def Obligations.UnknownTypeIsAnsweredBadType : Prop :=
  ∀ (r : Record) (rest : List Record) (s : State), s.cli.inbound = r :: rest → s.cli.reply = none →
    r.type ∉ requestTypes → exec .badType s = .next (s.replied 0xFF r.tag .badType .nothing)

/-- With the last byte of a reply its record leaves the inbound queue and the next may be handled
(R179). No reply's last byte goes while none waits, or while a notice that was partly clocked out when the
reply was formed has not gone (R180). A reply that is a RESET_PART's OK is the reset's (R185) and is not
meant here. -/
def Obligations.ReplySentPopsTheHeadRequest : Prop :=
  ∀ s : State,
    (∀ r, s.cli.reply = some r → ¬ (r.type = 0xB1 ∧ r.code = .ok) →
      (∀ x, s.cli.sending = some x → x.what = .reply) →
      exec .replySent s = .next { s with cli := { s.cli with
        inbound := s.cli.inbound.tail, reply := none, sending := none } }) ∧
    (s.cli.reply = none ∨ (∃ n, s.cli.sending = some ⟨.notice, n⟩) →
      exec .replySent s = .next s ∧ exec .resetPartTakesEffect s = .next s)

/-- The oldest notice leaves the queue with its last byte (R182). Where no completion can then be formed
(R147) nothing else changes. A notice not yet begun stays behind a waiting reply, and one behind a reply
that is being clocked out (R180). On MISO stands the next byte of the record being clocked out; with none,
the first byte of the reply or else of the oldest notice; and 0x00 while nothing waits (R180, R176). Every
byte clocked moves that record on by one, and begins the one whose turn it is. That bytes clocked stop short of
a record's last byte, which goes with NOTICE_SENT or REPLY_SENT alone, is the model's choice (assumption 8).
-/
def Obligations.NoticesLeaveOldestFirst : Prop :=
  ∀ s : State,
    (∀ n rest, s.cli.notices = n :: rest →
      (s.cli.reply = none ∧ s.cli.sending = none ∨ ∃ k, s.cli.sending = some ⟨.notice, k⟩) →
      s.done.length < 16 → s.coalTimer ≠ .expired →
      exec .noticeSent s = .next { s with cli := { s.cli with notices := rest, sending := none } }) ∧
    (s.cli.notices = [] ∨ s.cli.reply ≠ none ∧ s.cli.sending = none ∨
        (∃ k, s.cli.sending = some ⟨.reply, k⟩) →
      exec .noticeSent s = .next s) ∧
    (∀ r k, s.cli.reply = some r → s.cli.sending = some ⟨.reply, k⟩ →
      s.cli.misoByte = (frameBytes r.record).getD k 0) ∧
    (∀ n rest k, s.cli.notices = n :: rest → s.cli.sending = some ⟨.notice, k⟩ →
      s.cli.misoByte = (frameBytes n.record).getD k 0) ∧
    (s.cli.sending = none → s.cli.misoByte =
      if s.cli.reply ≠ none ∨ s.cli.notices ≠ [] then 0xA5 else 0x00) ∧
    let gone := match s.cli.sending with
      | some x => x.gone
      | none => 0
    s.cli.sendingAfter 0 = s.cli.sending ∧
    ∀ k, 0 < k →
      (∀ r, s.cli.reply = some r → (∀ x, s.cli.sending = some x → x.what = .reply) →
        s.cli.sendingAfter k = some ⟨.reply, min (gone + k) ((frameBytes r.record).length - 1)⟩) ∧
      (∀ n rest, s.cli.notices = n :: rest →
        (s.cli.reply = none ∧ s.cli.sending = none ∨ ∃ m, s.cli.sending = some ⟨.notice, m⟩) →
        s.cli.sendingAfter k = some ⟨.notice, min (gone + k) ((frameBytes n.record).length - 1)⟩) ∧
      (s.cli.sending = none → s.cli.reply = none → s.cli.notices = [] →
        s.cli.sendingAfter k = none)

/-! ### Reset and initialization -/

/-- R1: both resets set every station record to its vacant value, whatever it was. -/
def Obligations.ResetVacatesEveryStation : Prop :=
  let vacant : Station :=
    { state := .vacant, port := .zero, assoc := 0, cls := 0, rateMode := 0, rateCode := 1,
      queueCap := 64, frameLimit := 8, holding := 0, unreported := 0, expFifo := [], stdFifo := [],
      dlBalance := 0, ulBalance := 0, mainCredited := false, ulCredited := false,
      dlInFlight := false, ulInFlight := false, demand := 0, ps := .awake, allowance := 0,
      deadline := 0, health := .healthy, attempts := 0, failures := 0, degradedWindows := 0,
      airDl := 0, airUl := 0 }
  (∀ i, State.reset.station i = vacant) ∧
  (∀ s : State, ∃ t, exec .resetN s = .next t ∧ ∀ i, t.station i = vacant) ∧
  (∀ (r : Reply) (s : State), s.cli.reply = some r → r.type = 0xB1 → r.code = .ok →
    (∀ x, s.cli.sending = some x → x.what = .reply) →
    (∃ t, exec .resetPartTakesEffect s = .next t ∧ ∀ i, t.station i = vacant) ∧
    ∃ t, exec .replySent s = .next t ∧ ∀ i, t.station i = vacant)

/-- What each reset leaves: initialization begun for its cause, and every item of every block at its
reset value (R3, R21, R34, R43, R63, R89, R107, R112, R135, R152, R168, R183, R185, R186), the link of
every slot at 0 (R21). While RESET_N is low RDY and ATTN are low; after its release RDY is high and ATTN low
(R179, R180). Four things here are the model's choice, no rule's: that one command takes both edges of
RESET_N, with nothing between them (assumption 24); that the time base runs on through a reset (assumption
3); that initialization may take 1000 more microseconds counted from here (assumption 27: R186 gives the
limit alone); and that the queue of commands and the counter of free choices stand (assumption 28). -/
def Obligations.ResetsLeaveTheResetValues : Prop :=
  let params : PortParams :=
    { dlQuantum := 4000, ulQuantum := 2000, airtimeCap := 4000, aggLimit := 32, trim := 0,
      epochLength := 100, expShare := 25, ulRatio := 3, windowLength := 2000, ulMax := 4,
      grantTimeout := 20, holdLimit := 500, serviceTimeout := 50 }
  let port : Port :=
    { state := .absent, hold := false, holdReason := .none, holdTimer := none, depth := 1,
      inFlight := [], nextNumber := 0, consecutiveTimeouts := 0, grantTimeouts := 0,
      unmatchedOutcomes := 0, portLosses := 0, radioRestarts := 0, holdStalls := 0, params,
      rates := [], mainRot := [], expRot := [], ulRot := [], budget := 25000, epochTimer := none,
      sinceUplink := 0, resumeTimer := none, suspendReason := .none, resultAnomalies := 0,
      rateIgnored := 0, assocMap := [], tis := [], badFrames := 0, discarded := 0,
      huntCounted := false, outbound := [] }
  let after (cause : ResetCause) (s : State) : State :=
    { resetLow := false, clock := s.clock, init := ⟨true, 1000, cause⟩
      cli := { inbound := [], reply := none, notices := [], lossPending := false, badFrames := 0,
               overruns := 0, huntCounted := false, sending := none }
      stations := [], slots := [], freeStack := List.range' 0 4096, done := [],
      coalTimer := .stopped, lifetimes := ⟨100, 2000, 100⟩, weights := [],
      monitor := ⟨64, 24, 8, 4, 50⟩, port0 := port, port1 := port, freeIx := s.freeIx,
      pending := s.pending }
  (∀ s : State, exec .resetN s = .next s.assertReset.releaseReset ∧
    s.assertReset.releaseReset = after .resetN s ∧ s.assertReset.resetLow = true ∧
    s.assertReset.rdy = false ∧ s.assertReset.attn = false) ∧
  (∀ (r : Reply) (s : State), s.cli.reply = some r → r.type = 0xB1 → r.code = .ok →
    (∀ x, s.cli.sending = some x → x.what = .reply) →
    exec .resetPartTakesEffect s = .next (after .resetPart s) ∧
    exec .replySent s = .next (after .resetPart s)) ∧
  (∀ (cause : ResetCause) (s : State),
    (∀ k, (after cause s).slot k = ⟨.free, 0, 0, .expedited, 0, false, 0, .delivered, false⟩ ∧
      (after cause s).slotLink k = some 0) ∧
    ((after cause s).rdy = true ∧ (after cause s).attn = false) ∧
    (∀ c, (after cause s).weight c = 16) ∧
    (∀ p code, ((after cause s).port p).rate code = ⟨0, 0, 0, false⟩) ∧
    ∀ p a, ((after cause s).port p).mapped a = none)

/-- A RESET_PART with an empty body is answered OK and changes nothing before its reply has gone; with
any other body it is refused BAD_RECORD (R185). -/
def Obligations.ResetPartIsAnsweredFirst : Prop :=
  ∀ (tag : Byte) (body : List Byte) (s : State), s.Waits 0x31 tag body →
    exec .resetPart s =
      .next (s.replied 0xB1 tag (if body = [] then .ok else .badRecord) .nothing)

/-- At the end of initialization the six link counts are 0 (that they are cleared at this moment, as well as
at the reset, is the model's choice, assumption 14: R183 does not fix it), READY joins the notice queue with
the reset cause, an ANNOUNCE goes to each radio, and requests are taken (R183, R186, R108). -/
def Obligations.InitializationEndsWithReadyAndAnnounce : Prop :=
  ∀ s : State, s.init.active = true →
    exec .initializationComplete s = .next { s with
      init := ⟨false, 0, s.init.cause⟩
      cli := { s.cli.placed (.ready s.init.cause) with badFrames := 0, overruns := 0 }
      port0 := { s.port0 with
        badFrames := 0, discarded := 0, outbound := s.port0.outbound ++ [.announce .zero] }
      port1 := { s.port1 with
        badFrames := 0, discarded := 0, outbound := s.port1.outbound ++ [.announce .one] } }

/-- During initialization every request but STATUS is answered NOT_READY with its tag and changes no
state; an ENQUEUE so answered carries accepted count 0 and NOT_READY again (R186). That this is so whatever
the request's body, before its length is looked at, is the model's choice (assumption 13). -/
def Obligations.RequestsDuringInitializationAreNotReady : Prop :=
  ∀ (c : Instr) (type tag : Byte) (body : List Byte) (rest : List Record) (s : State),
    (c, type) ∈ requests → c ≠ .status → s.init.active = true → s.cli.reply = none →
    s.cli.inbound = ⟨type, tag, body⟩ :: rest →
    exec c s = .next (s.replied (type + 0x80) tag .notReady
      (if c = .enqueue then .enqueue 0 .notReady else .nothing))

/-- A radio's record that arrives during initialization has no effect and is not counted (R108, R186);
only the link's receiver has taken a frame. -/
def Obligations.RadioRecordsDuringInitializationHaveNoEffect : Prop :=
  ∀ (c : Instr) (p : PortNo) (s : State), radioOf c = some p → s.init.active = true →
    exec c s = .next (s.setPort p { s.port p with huntCounted := false })

/-! ### Settings and port control (sections 3.1 to 3.3, 6.4, 9.5, 2.7) -/

/-- CONFIGURE_PORT whole: its checks in order, and an accepted one's thirteen values, each clamped, the
aggregate limit rounded to a power of two, stored and returned (R111, R45), with the expedited budget
reloaded (R84, R59). -/
def Obligations.ConfigurePortStoresThirteenClampedValues : Prop :=
  ∀ (tag : Byte) (body : List Byte) (s : State), s.Waits 0x01 tag body →
    let refused (c : ReplyCode) : Prop :=
      exec .configurePort s = .next (s.replied 0x81 tag c .nothing)
    if body.length ≠ 20 then refused .badRecord
    else ∃ r, parseConfigure body = some r ∧
      if 1 < r.port then refused .badRecord
      else ∃ p, portOf r.port = some p ∧
        if (s.port p).state = .running ∨ (s.port p).state = .suspended ∨
          (s.port p).state = .draining then refused .portState
        else ∃ agg,
          (r.params.aggLimit = 0 ∨ 64 < r.params.aggLimit → agg = 64) ∧
          (r.params.aggLimit ∈ [1, 2, 4, 8, 16, 32, 64] → agg = r.params.aggLimit) ∧
          (r.params.aggLimit ∉ [0, 1, 2, 4, 8, 16, 32, 64] → r.params.aggLimit < 64 →
            agg ∈ [2, 4, 8, 16, 32] ∧ agg < r.params.aggLimit ∧ r.params.aggLimit < 2 * agg) ∧
          let q : PortParams :=
            { dlQuantum := max 500 (min 20000 r.params.dlQuantum)
              ulQuantum := max 200 (min 20000 r.params.ulQuantum)
              airtimeCap := max 100 (min 8000 r.params.airtimeCap)
              aggLimit := agg
              trim := max (-7) (min 7 r.params.trim)
              epochLength := max 10 (min 1000 r.params.epochLength)
              expShare := min 100 r.params.expShare
              ulRatio := min 15 r.params.ulRatio
              windowLength := max 200 (min 4000 r.params.windowLength)
              ulMax := max 1 (min 8 r.params.ulMax)
              grantTimeout := max 2 (min 200 r.params.grantTimeout)
              holdLimit := max 10 (min 2000 r.params.holdLimit)
              serviceTimeout := max 5 (min 200 r.params.serviceTimeout) }
          exec .configurePort s = .next ((s.setPort p { s.port p with
            params := q, budget := q.epochLength * 1000 * q.expShare / 100 }).replied 0x81 tag .ok
              (.params q))

/-- LOAD_RATES whole: the checks of R46 in order, and an accepted one's entries, clamped, at consecutive
codes, every other code's entry as it was, and the number of enabled codes in the reply. An enabled entry
returns a SUSPENDED port to RUNNING (R47, R81), and decisions follow while it has an opportunity (R116): a held
port makes none. -/
def Obligations.LoadRatesWritesConsecutiveCodes : Prop :=
  ∀ (tag : Byte) (body : List Byte) (s : State), s.Waits 0x02 tag body →
    let refused : Prop := exec .loadRates s = .next (s.replied 0x82 tag .badRecord .nothing)
    (body.length < 3 → refused) ∧
    ∀ (b0 b1 n : Byte) (rest : List Byte), body = b0 :: b1 :: n :: rest →
      if n.toNat = 0 ∨ 31 < n.toNat ∨ rest.length ≠ 7 * n.toNat then refused
      else ∃ r, parseLoadRates body = some r ∧ r.port = b0.toNat ∧ r.first = b1.toNat ∧
        r.entries.length = n.toNat ∧
        if 1 < r.port then refused
        else if r.first = 0 ∨ 31 < r.first + r.entries.length - 1 then refused
        else ∃ p rates enabled, portOf r.port = some p ∧
          (∀ code, Table.get ⟨0, 0, 0, false⟩ rates code =
            match if r.first ≤ code then r.entries[code - r.first]? else none with
            | some e => ⟨max 2 (min 4800 e.rate), min 1023 e.grantOverhead, min 255 e.frameOverhead,
                e.enabled⟩
            | none => (s.port p).rate code) ∧
          enabled = ((List.range' 1 31).filter fun code =>
            (Table.get ⟨0, 0, 0, false⟩ rates code).enabled).length ∧
          ((s.port p).state ≠ .suspended ∨ (∀ e ∈ r.entries, e.enabled = false) →
            exec .loadRates s = .next ((s.setPort p { s.port p with rates }).replied 0x82 tag .ok
              (.enabledCodes enabled))) ∧
          ((s.port p).state = .suspended → (∃ e ∈ r.entries, e.enabled = true) →
            ((s.port p).hold = true → exec .loadRates s = .next ((s.setPort p { s.port p with
              rates, state := .running, suspendReason := .none, resumeTimer := none }).replied
                0x82 tag .ok (.enabledCodes enabled))) ∧
            ∃ t, (s.setPort p { s.port p with
                rates, state := .running, suspendReason := .none, resumeTimer := none }).Decides t p ∧
              exec .loadRates s = .next (t.replied 0x82 tag .ok (.enabledCodes enabled)) ∧
              (t.port p).rates = rates)

/-- SET_WEIGHTS: eight weights clamped to 1 to 64, stored and returned (R48). SET_MONITOR: five settings,
each clamped against those before it, stored and returned (R173). Both refuse a wrong length BAD_RECORD.
-/
def Obligations.SharedSettingsAreStoredClamped : Prop :=
  (∀ (tag : Byte) (body : List Byte) (s : State), s.Waits 0x03 tag body →
    if body.length ≠ 8 then
      exec .setWeights s = .next (s.replied 0x83 tag .badRecord .nothing)
    else ∃ weights, (∀ c, Table.get 16 weights c =
        match body[c]? with
        | some b => max 1 (min 64 b.toNat)
        | none => s.weight c) ∧
      exec .setWeights s = .next ({ s with weights }.replied 0x83 tag .ok
        (.weights (body.map fun (b : Byte) => max 1 (min 64 b.toNat))))) ∧
  (∀ (tag : Byte) (body : List Byte) (s : State), s.Waits 0x04 tag body →
    if body.length ≠ 8 then
      exec .setMonitor s = .next (s.replied 0x84 tag .badRecord .nothing)
    else ∃ r, parseMonitor body = some r ∧
      let window := max 16 (min 255 r.window)
      let degrade := max 1 (min window r.degrade)
      let m : MonitorSettings :=
        { window, degrade, recover := min (degrade - 1) r.recover
          aggLimit := max 1 (min 64 r.aggLimit), percent := max 25 (min 100 r.percent) }
      exec .setMonitor s = .next ({ s with monitor := m }.replied 0x84 tag .ok (.monitor m)))

/-- SET_LIFETIMES stores and returns its three clamped values (R34). The coalescing timer is set anew from the
head: stopped with nothing finished, running while the head has not waited the new coalescing time, else
expired (R146). COMPLETION notices are then formed while R147 has them formed, each as R148 says; a departure
that one of them completes has no downlink grant in flight (assumption 10). -/
def Obligations.SetLifetimesStoresClampedAndRetimes : Prop :=
  ∀ (tag : Byte) (body : List Byte) (s : State), s.Waits 0x05 tag body →
    if body.length ≠ 6 then
      exec .setLifetimes s = .next (s.replied 0x85 tag .badRecord .nothing)
    else ∃ r, parseLifetimes body = some r ∧
      let l : Lifetimes := ⟨min 30000 r.expedited, min 30000 r.standard, min 1000 r.coalescing⟩
      let u : State := { s with
        lifetimes := l
        coalTimer := match s.done with
          | [] => .stopped
          | d :: _ => if (s.clock.us - d.joined).toNat < l.coalescing then .running else .expired }
      (¬ u.mayForm → exec .setLifetimes s = .next (u.replied 0x85 tag .ok (.lifetimes l))) ∧
      ((s.done.map DoneEntry.slot).Nodup → ∃ t, u.Completes t ∧
        exec .setLifetimes s = .next (t.replied 0x85 tag .ok (.lifetimes l))) ∧
      ∃ t, exec .setLifetimes s = .next t ∧ t.lifetimes = l ∧
        t.cli.reply = some ⟨0x85, tag, .ok, .lifetimes l⟩

/-- START_PORT in every port state (R113, R81, R84, R85, R164, R116). A STOPPED or DRAINING port with an
enabled code goes RUNNING with a full budget, the epoch timer at its full length, and the whole Traffic
Indication Set sent: a CLEAR, then an ADD for each member in rising order of association number. A SUSPENDED
port is woken. Decisions then follow one another while, and only while, the port has an opportunity: a held
or full port makes none and stays RUNNING; one that makes them is left RUNNING without an opportunity or
SUSPENDED, its budget spent at most, its epoch timer as started, and what they send stands behind what was
sent before. The port state in the reply of a start that a decision follows is RUNNING or the state after it
(assumption 11). -/
def Obligations.StartPortRunsThePort : Prop :=
  ∀ (tag : Byte) (body : List Byte) (s : State), s.Waits 0x06 tag body →
    let refused (c : ReplyCode) : Prop := exec .startPort s = .next (s.replied 0x86 tag c .nothing)
    let runs (p : PortNo) (q : Port) : Prop := ∃ t st, (s.setPort p q).Decides t p ∧
      ((t.port p).state = .running ∨ (t.port p).state = .suspended) ∧
      (t.port p).budget ≤ q.budget ∧ (t.port p).epochTimer = q.epochTimer ∧
      (∃ more, (t.port p).outbound = q.outbound ++ more) ∧
      (st = .running ∨ st = (t.port p).state) ∧
      exec .startPort s = .next (t.replied 0x86 tag .ok (.portState st))
    if body.length ≠ 1 then refused .badRecord
    else ∃ b, body = [b] ∧
      if 1 < b.toNat then refused .badRecord
      else ∃ p, portOf b.toNat = some p ∧
        match (s.port p).state with
        | .absent => refused .portAbsent
        | .running => exec .startPort s = .next (s.replied 0x86 tag .ok (.portState .running))
        | .suspended => runs p { s.port p with
            state := .running, suspendReason := .none, resumeTimer := none }
        | .stopped | .draining =>
          ((∀ c, 1 ≤ c → c ≤ 31 → ((s.port p).rate c).enabled = false) → refused .noRates) ∧
          ((∃ c, 1 ≤ c ∧ c ≤ 31 ∧ ((s.port p).rate c).enabled = true) →
            ∃ numbers : List Nat, numbers.Pairwise (· ≤ ·) ∧
              numbers.Perm ((s.port p).tis.map fun i => (s.station i).assoc) ∧
              runs p { s.port p with
                state := .running
                budget := (s.port p).params.epochLength * 1000 * (s.port p).params.expShare / 100
                epochTimer := some (s.port p).params.epochLength
                outbound := (s.port p).outbound ++
                  .timUpdate .clear 0 :: numbers.map (.timUpdate .add) })

/-- STOP_PORT in every port state (R114): a running or suspended port stops, or drains while grants are in
flight, its resume timer disarmed and its suspension reason none; nothing in flight, queued, rotating or
held is touched. -/
def Obligations.StopPortStopsOrDrains : Prop :=
  ∀ (tag : Byte) (body : List Byte) (s : State), s.Waits 0x07 tag body →
    let refused (c : ReplyCode) : Prop := exec .stopPort s = .next (s.replied 0x87 tag c .nothing)
    if body.length ≠ 1 then refused .badRecord
    else ∃ b, body = [b] ∧
      if 1 < b.toNat then refused .badRecord
      else ∃ p, portOf b.toNat = some p ∧
        match (s.port p).state with
        | .absent => refused .portAbsent
        | .stopped => exec .stopPort s = .next (s.replied 0x87 tag .ok (.portState .stopped))
        | .draining => exec .stopPort s = .next (s.replied 0x87 tag .ok (.portState .draining))
        | .running | .suspended =>
          ((s.port p).inFlight = [] → exec .stopPort s = .next ((s.setPort p { s.port p with
            state := .stopped, epochTimer := none, resumeTimer := none,
            suspendReason := .none }).replied 0x87 tag .ok (.portState .stopped))) ∧
          ((s.port p).inFlight ≠ [] → exec .stopPort s = .next ((s.setPort p { s.port p with
            state := .draining, resumeTimer := none, suspendReason := .none }).replied 0x87 tag .ok
              (.portState .draining)))

/-! ### Station requests (chapter 1) -/

/-- ADMIT whole: the checks of R5 in order, each refusal changing no state, and an accepted one's record,
its tunable fields clamped (R6), every other field at its vacant value (R7), and its map entry. -/
def Obligations.AdmitChecksInOrderAndBinds : Prop :=
  ∀ (tag : Byte) (body : List Byte) (s : State), s.Waits 0x10 tag body →
    let refused (c : ReplyCode) : Prop :=
      exec .admitStation s = .next (s.replied 0x90 tag c .nothing)
    if body.length ≠ 11 then refused .badRecord
    else ∃ r, parseAdmit body = some r ∧
      if 511 < r.station then refused .badStation
      else if 1 < r.port then refused .badRecord
      else if r.assoc = 0 ∨ 1023 < r.assoc then refused .badRecord
      else if (s.station r.station).state ≠ .vacant then refused .notVacant
      else ∃ p, portOf r.port = some p ∧
        if (s.port p).state = .absent then refused .portAbsent
        else if (s.port p).mapped r.assoc ≠ none then refused .duplicateAssoc
        else ∃ t, exec .admitStation s = .next t ∧
          t = ((s.setStation r.station (t.station r.station)).setPort p { s.port p with
            assocMap := (t.port p).assocMap }).replied 0x90 tag .ok .nothing ∧
          t.station r.station =
            { state := .active, port := p, assoc := r.assoc, cls := min 7 r.cls,
              rateMode := min 31 r.rateMode, rateCode := max 1 (min 31 r.rateCode),
              queueCap := max 8 (min 256 r.queueCap), frameLimit := max 1 (min 64 r.frameLimit),
              holding := 0, unreported := 0, expFifo := [], stdFifo := [], dlBalance := 0,
              ulBalance := 0, mainCredited := false, ulCredited := false, dlInFlight := false,
              ulInFlight := false, demand := 0, ps := .awake, allowance := 0, deadline := 0,
              health := .healthy, attempts := 0, failures := 0, degradedWindows := 0, airDl := 0,
              airUl := 0 } ∧
          (∀ i, i ≠ r.station → t.station i = s.station i) ∧
          ∀ a, (t.port p).mapped a = if a = r.assoc then some r.station else (s.port p).mapped a

/-- UPDATE whole (R8): its checks, and the masked fields written clamped, the queue cap never below the
holding (R10); every other field of the record, and all else, as it was. -/
def Obligations.UpdateWritesTheMaskedFields : Prop :=
  ∀ (tag : Byte) (body : List Byte) (s : State), s.Waits 0x11 tag body →
    let refused (c : ReplyCode) : Prop := exec .update s = .next (s.replied 0x91 tag c .nothing)
    if body.length ≠ 8 then refused .badRecord
    else ∃ r, parseUpdate body = some r ∧
      if 511 < r.station then refused .badStation
      else match (s.station r.station).state with
        | .vacant => refused .notAdmitted
        | .departing => refused .departing
        | .active =>
          let x := s.station r.station
          let y : Station := { x with
            cls := if r.setClass then min 7 r.cls else x.cls
            rateMode := if r.setRateMode then min 31 r.rateMode else x.rateMode
            queueCap := if r.setQueueCap then max x.holding (max 8 (min 256 r.queueCap))
              else x.queueCap
            frameLimit := if r.setFrameLimit then max 1 (min 64 r.frameLimit) else x.frameLimit }
          exec .update s =
            .next ((s.setStation r.station y).replied 0x91 tag .ok (.queueCap y.queueCap))

/-- R12: DEPART's checks in order, a refusal changing no state, and a DEPART of an ACTIVE station taken
whatever the state of its port. -/
def Obligations.DepartIsTakenForActiveStationsOnly : Prop :=
  ∀ (tag : Byte) (body : List Byte) (s : State), s.Waits 0x12 tag body →
    let refused (c : ReplyCode) : Prop := exec .depart s = .next (s.replied 0x92 tag c .nothing)
    if body.length ≠ 2 then refused .badRecord
    else ∃ i, parseStation body = some i ∧
      if 511 < i then refused .badStation
      else match (s.station i).state with
        | .vacant => refused .notAdmitted
        | .departing => refused .departing
        | .active => ∃ t, exec .depart s = .next t ∧
          t.cli.reply = some ⟨0x92, tag, .ok, .nothing⟩ ∧ (t.station i).state ≠ .active

/-- QUERY_STATION whole (R19, R49, R50): its checks, and a reply that carries every field of the record,
the effective rate code, the three memberships and the time to the service deadline. The effective code
is the named code if enabled, else the highest enabled code below it, else the lowest above; 0 for a
port with no enabled code and for a VACANT record. The deadline and the present are compared over half the
range of a timestamp (PRESUMED, assumption 9). No state changes. -/
def Obligations.QueryReportsTheWholeRecord : Prop :=
  ∀ (tag : Byte) (body : List Byte) (s : State), s.Waits 0x13 tag body →
    let refused (c : ReplyCode) : Prop :=
      exec .queryStation s = .next (s.replied 0x93 tag c .nothing)
    if body.length ≠ 2 then refused .badRecord
    else ∃ i, parseStation body = some i ∧
      if 511 < i then refused .badStation
      else
        let r := s.station i
        let q := s.port r.port
        let enabled (c : Nat) : Prop := 1 ≤ c ∧ c ≤ 31 ∧ (q.rate c).enabled = true
        let named := if r.rateMode = 0 then r.rateCode else r.rateMode
        let isBound := r.state ≠ .vacant
        ∃ code left,
          (¬ isBound → code = 0) ∧
          (isBound → enabled named → code = named) ∧
          (isBound → ¬ enabled named → (∃ c < named, enabled c) →
            enabled code ∧ code < named ∧ ∀ c < named, enabled c → c ≤ code) ∧
          (isBound → (∀ c ≤ named, ¬ enabled c) → (∃ c, enabled c) →
            enabled code ∧ named < code ∧ ∀ c, enabled c → code ≤ c) ∧
          (isBound → (∀ c, ¬ enabled c) → code = 0) ∧
          (r.ps ≠ .service → left = 0) ∧
          (r.ps = .service → (s.clock.ms - r.deadline).toNat < 2147483648 → left = 0) ∧
          (r.ps = .service → 2147483648 ≤ (s.clock.ms - r.deadline).toNat →
            left = (r.deadline - s.clock.ms).toNat) ∧
          exec .queryStation s = .next (s.replied 0x93 tag .ok (.station
            { station := i, state := r.state, port := r.port, assoc := r.assoc, cls := r.cls,
              rateMode := r.rateMode, rateCode := r.rateCode, effectiveCode := code,
              queueCap := r.queueCap, frameLimit := r.frameLimit, holding := r.holding,
              unreported := r.unreported, expCount := r.expFifo.length,
              stdCount := r.stdFifo.length, dlBalance := r.dlBalance, ulBalance := r.ulBalance,
              mainCredited := r.mainCredited, ulCredited := r.ulCredited,
              inMain := decide (isBound ∧ i ∈ q.mainRot),
              inExpedited := decide (isBound ∧ i ∈ q.expRot),
              inUplink := decide (isBound ∧ i ∈ q.ulRot), dlInFlight := r.dlInFlight,
              ulInFlight := r.ulInFlight, demand := r.demand, ps := r.ps,
              allowance := r.allowance, timeToDeadline := left, health := r.health,
              attempts := r.attempts, failures := r.failures,
              degradedWindows := r.degradedWindows, airDl := r.airDl, airUl := r.airUl }))

/-! ### The Descriptor Pool (chapter 2) and departure -/

/-- ENQUEUE's checks and counts: R26's four in order, then R27's three entry by entry, the accepted
entries seen by those after them (the holding rises and the free stack falls by one each), and the reply
of R29. An ENQUEUE of which nothing is accepted changes no state. -/
def Obligations.EnqueueChecksAndCountsInOrder : Prop :=
  ∀ (tag : Byte) (body : List Byte) (s : State), s.Waits 0x20 tag body →
    let refused (c : ReplyCode) : Prop :=
      exec .enqueue s = .next (s.replied 0xA0 tag c (.enqueue 0 c))
    (body.length < 3 → refused .badRecord) ∧
    ∀ (b0 b1 count : Byte) (rest : List Byte), body = b0 :: b1 :: count :: rest →
      if count.toNat = 0 ∨ 16 < count.toNat ∨ rest.length ≠ 7 * count.toNat then refused .badRecord
      else ∃ r, parseEnqueue body = some r ∧ r.station = b0.toNat + 256 * b1.toNat ∧
        r.entries.length = count.toNat ∧
        let x := s.station r.station
        if 511 < r.station then refused .badStation
        else match x.state with
          | .vacant => refused .notAdmitted
          | .departing => refused .departing
          | .active => ∃ t accepted first, exec .enqueue s = .next t ∧
            (∀ j < accepted, ∃ d, r.entries[j]? = some d ∧ 1 ≤ d.length ∧ d.length ≤ 8000 ∧
              x.holding + j < x.queueCap ∧ j < s.freeStack.length) ∧
            first = (match r.entries[accepted]? with
              | none => .ok
              | some d => if d.length = 0 ∨ 8000 < d.length then .badFrameLength
                else if x.queueCap ≤ x.holding + accepted then .queueFull else .poolEmpty) ∧
            (first = .poolEmpty → s.freeStack.length = accepted) ∧
            t.cli.reply = some ⟨0xA0, tag,
              if first = .ok then .ok else if accepted = 0 then first else .partialAccepted,
              .enqueue accepted first⟩ ∧
            (accepted = 0 → t = s.replied 0xA0 tag first (.enqueue 0 first))

/-- What an ENQUEUE does whose first `a` entries, 1 to 16 of them, are accepted and no more (R27 to R31): the
`a` slots on top of the free stack take them in order, all with the present timestamp, and stand at the tails
of their tiers in that order; the holding rises by `a`; the station joins the rotations it now qualifies for
(R64, R65) and, where it dozes or is in SERVICE, the Traffic Indication Set (R162, R163); a SUSPENDED port is
woken (R81), and decisions follow while it has an opportunity (R116), none before the last accepted entry (the
model's choice, assumption 32). The reply is OK, or PARTIAL with the code that the entry after them met (R29).
-/
def Obligations.EnqueueQueuesTheFrame : Prop :=
  ∀ (tag : Byte) (i : Nat) (entries : List Descriptor) (a : Nat) (s : State), i ≤ 511 →
    entries.length ≤ 16 → (∀ d ∈ entries, d.length < 65536) →
    s.Waits 0x20 tag (encodeEnqueue ⟨i, entries⟩) → (s.station i).state = .active →
    s.RotationsAgree → s.IndicationsAgree → s.freeStack.Nodup →
    let r := s.station i
    let q := s.port r.port
    let fits (j : Nat) (d : Descriptor) : Prop := 1 ≤ d.length ∧ d.length ≤ 8000 ∧
      r.holding + j < r.queueCap ∧ j < s.freeStack.length
    1 ≤ a → a ≤ entries.length → (∀ j < a, ∀ d, entries[j]? = some d → fits j d) →
    (∀ d, entries[a]? = some d → ¬ fits a d) →
    let filled := s.freeStack.take a
    let pairs := filled.zip entries
    let joining (tier : Tier) : List Nat := (pairs.filter fun x => x.2.tier == tier).map Prod.fst
    let first : ReplyCode := match entries[a]? with
      | none => .ok
      | some d => if d.length = 0 ∨ 8000 < d.length then .badFrameLength
        else if r.queueCap ≤ r.holding + a then .queueFull else .poolEmpty
    ∃ u t, exec .enqueue s = .next (t.replied 0xA0 tag (if first = .ok then .ok else .partialAccepted)
        (.enqueue a first)) ∧
      (if q.state = .suspended then u.Decides t r.port else t = u) ∧
      s.SameParts u ∧ s.SameOthers u i r.port ∧ u.cli = s.cli ∧
      u.freeStack = s.freeStack.drop a ∧ u.done = s.done ∧ u.coalTimer = s.coalTimer ∧
      (∀ x ∈ pairs, u.slot x.1 = ⟨.queued, x.2.handle, i, x.2.tier, x.2.length, x.2.solo, s.clock.ms,
        .delivered, true⟩) ∧
      (∀ k, k ∉ filled → u.slot k = s.slot k) ∧
      u.station i = { r with
        expFifo := r.expFifo ++ joining .expedited
        stdFifo := r.stdFifo ++ joining .standard
        holding := r.holding + a } ∧
      u.port r.port = ({ q with
        mainRot := if r.ps ≠ .doze ∧ ¬ r.hasQueued then q.mainRot ++ [i] else q.mainRot
        expRot := if r.ps ≠ .doze ∧ r.expFifo = [] ∧ joining .expedited ≠ [] then q.expRot ++ [i]
          else q.expRot : Port }.fitTis i r.assoc (r.ps ≠ .awake)).woken True

/-- FLUSH whole: the checks of R32 in order, and what a flush does (R33): every slot of the selected tiers
DONE FLUSHED, EXPEDITED before STANDARD, head to tail, the counts moved, and the station out of the rotations
and the Traffic Indication Set as its queues empty (R65, R66, R163). A service period that the flush runs dry,
with no grant in flight, ends: all this, and the station in DOZE with no allowance and no deadline, out of
every rotation (R94, R95), an entry's end-of-service flag cleared (R158), and a SERVICE_EMPTY behind the
REMOVE unless the port is ABSENT (R160, R166). All this is written out for a flush that brings no COMPLETION
notice; of any flush, from a state between two commands, it is said frame by frame: each leaves the head of
its queue, and the COMPLETION notices that R147 then has formed are formed before the next (R148; DEDUCED,
assumption 18). -/
def Obligations.FlushEmptiesTheSelectedTiers : Prop :=
  ∀ (tag : Byte) (body : List Byte) (s : State), s.Waits 0x21 tag body →
    let refused (c : ReplyCode) : Prop := exec .flush s = .next (s.replied 0xA1 tag c .nothing)
    (body.length ≠ 3 → refused .badRecord) ∧
    ∀ (b0 b1 tier : Byte), body = [b0, b1, tier] →
      let i := b0.toNat + 256 * b1.toNat
      let r := s.station i
      let q := s.port r.port
      if 2 < tier.toNat then refused .badRecord
      else if 511 < i then refused .badStation
      else match r.state with
        | .vacant => refused .notAdmitted
        | .departing => refused .departing
        | .active =>
          let exp := if tier = 1 then [] else r.expFifo
          let std := if tier = 0 then [] else r.stdFifo
          let gone := exp ++ std
          let empties := gone ≠ [] ∧ gone.length = r.queuedCount
          (s.Quiet gone.length → ¬ (r.ps = .service ∧ empties ∧ r.dlInFlight = false) →
            ∃ t, exec .flush s = .next t ∧ s.SameParts t ∧ s.SameOthers t i r.port ∧
            s.Finishes t gone .flushed ∧
            t.cli = s.cli.answered 0xA1 tag .ok (.flushed gone.length) ∧
            t.station i = { r.leftMain (empties ∧ i ∈ q.mainRot) with
              expFifo := if tier = 1 then r.expFifo else []
              stdFifo := if tier = 0 then r.stdFifo else []
              holding := r.holding - gone.length
              unreported := r.unreported + gone.length } ∧
            t.port r.port =
              let q1 := { q with
                expRot := if exp ≠ [] then q.expRot.filter (· != i) else q.expRot
                mainRot := if empties then q.mainRot.filter (· != i) else q.mainRot }
              if empties then q1.fitTis i r.assoc False else q1) ∧
          (s.Quiet gone.length → r.ps = .service → empties → r.dlInFlight = false →
            ∃ t, exec .flush s = .next t ∧ s.SameParts t ∧ s.SameOthers t i r.port ∧
            s.Finishes t gone .flushed ∧
            t.cli = s.cli.answered 0xA1 tag .ok (.flushed gone.length) ∧
            t.station i = { (r.leftMain (i ∈ q.mainRot)).leftUl (i ∈ q.ulRot) with
              expFifo := [], stdFifo := []
              holding := r.holding - gone.length
              unreported := r.unreported + gone.length
              ps := .doze, allowance := 0, deadline := 0 } ∧
            t.port r.port =
              let q1 := { (q.withoutDl i).withoutUl i with
                inFlight := entriesWith q.inFlight i true false : Port }.fitTis i r.assoc False
              { q1 with outbound := if q.state = .absent then q1.outbound
                else q1.outbound ++ [.serviceEmpty r.assoc] }) ∧
          (s.Coherent → ∃ v t,
            State.Each (State.EndsHead .flushed)
              (exp.map (i, .expedited, ·) ++ std.map (i, .standard, ·)) s v ∧
            (if r.ps = .service ∧ empties ∧ r.dlInFlight = false then v.RunsDry t i else t = v) ∧
            exec .flush s = .next (t.replied 0xA1 tag .ok (.flushed gone.length)))

/-- A DEPART taken (R13): the station leaves every rotation, its demand is 0, both tiers are flushed EXPEDITED
first, its PS state is AWAKE and it leaves the Traffic Indication Set. With nothing of the station's
outstanding the departure completes before the reply: the record is VACANT, its map entry is gone and
DEPART_DONE is placed (R16, R17). That a downlink grant in flight also holds a departure back is the model's
reading (assumption 10). All this is written out for a flush that brings no COMPLETION notice; of any DEPART,
from a state between two commands, it is said frame by frame: each leaves the head of its queue, and the
COMPLETION notices that R147 then has formed are formed before the next (R148; DEDUCED, assumption 18); where
one of them completes the departure itself, nothing is left to do. -/
def Obligations.DepartEndsTheStationsPart : Prop :=
  ∀ (tag : Byte) (i : Nat) (s : State), i ≤ 511 → s.Waits 0x12 tag (toLe 2 i) →
    (s.station i).state = .active →
    let r := s.station i
    let q := s.port r.port
    let gone := r.expFifo ++ r.stdFifo
    let r0 : Station := { (r.leftMain (i ∈ q.mainRot)).leftUl (i ∈ q.ulRot) with
      state := .departing, demand := 0 }
    let q0 : Port := (q.withoutDl i).withoutUl i
    (s.Quiet r.queuedCount →
      let r1 : Station := { r0 with
        expFifo := [], stdFifo := []
        holding := r.holding - gone.length, unreported := r.unreported + gone.length
        ps := .awake, allowance := 0, deadline := 0 }
      let q1 := { q0 with
        inFlight := entriesWith q.inFlight i (r.ps = .service) false : Port }.fitTis i r.assoc False
      ∃ t, exec .depart s = .next t ∧ s.SameParts t ∧ s.SameOthers t i r.port ∧
        s.Finishes t gone .flushed ∧
        if r1.holding = 0 ∧ r1.unreported = 0 ∧ r1.ulInFlight = false ∧ r1.dlInFlight = false then
          t.station i = Station.vacantRecord ∧
          (∀ a, (t.port r.port).mapped a = if a = r.assoc then none else q.mapped a) ∧
          t.port r.port = { q1 with assocMap := (t.port r.port).assocMap } ∧
          t.cli = (s.cli.placed (.departDone i)).answered 0x92 tag .ok .nothing
        else
          t.station i = r1 ∧ t.port r.port = q1 ∧
          t.cli = s.cli.answered 0x92 tag .ok .nothing) ∧
    (s.Coherent → ∃ v t,
      State.Each (State.EndsHead .flushed)
        (r.expFifo.map (i, .expedited, ·) ++ r.stdFifo.map (i, .standard, ·))
        ((s.setStation i r0).setPort r.port q0) v ∧
      exec .depart s = .next (t.replied 0x92 tag .ok .nothing) ∧
      let x := v.station i
      let r1 : Station := { x with ps := .awake, allowance := 0, deadline := 0 }
      let q1 := { v.port r.port with
        inFlight := entriesWith (v.port r.port).inFlight i (x.ps = .service) false : Port }.fitTis i
          r.assoc False
      (x.state ≠ .departing → t = v) ∧
      (x.state = .departing → v.SameParts t ∧ v.SamePool t ∧ v.SameOthers t i r.port ∧
        if x.holding = 0 ∧ x.unreported = 0 ∧ x.ulInFlight = false ∧ x.dlInFlight = false then
          t.station i = Station.vacantRecord ∧
          (∀ a, (t.port r.port).mapped a = if a = r.assoc then none else q1.mapped a) ∧
          t.port r.port = { q1 with assocMap := (t.port r.port).assocMap } ∧
          t.cli = v.cli.placed (.departDone i)
        else t.station i = r1 ∧ t.port r.port = q1 ∧ t.cli = v.cli))

/-- STATUS whole (R184): a body refused BAD_RECORD; otherwise OK, in every state of the part, with every
item of R87, R134, R151, R167, R175, R22 and R34 as it stands. During initialization the initializing flag
is set and every other item reads as after reset, the two queue counts too (assumption 23). The four
slot-state counts sum to 4096. An entry's time left is 0 once its deadline is reached, compared over half
the range of a timestamp (PRESUMED, assumption 9). -/
def Obligations.StatusReportsEveryItem : Prop :=
  ∀ (tag : Byte) (body : List Byte) (s : State), s.cli.inbound.head? = some ⟨0x30, tag, body⟩ →
    s.cli.reply = none →
    let inState (x : State) (st : SlotState) : Nat :=
      (x.slots.filter fun e => e.2.state == st).length
    let block (x : State) (p : PortNo) : PortReport :=
      let q := x.port p
      let inPs (ps : PsState) : Nat :=
        (x.stations.filter fun e => (x.station e.1).port == p && (x.station e.1).ps == ps).length
      { state := q.state, hold := q.hold, resumeArmed := decide (q.resumeTimer ≠ none)
        holdReason := q.holdReason, holdTimeLeft := q.holdTimer.getD 0, depth := q.depth
        inFlightCount := q.inFlight.length
        entries := q.inFlight.map fun e =>
          { number := e.number
            isUplink := match e.work with
              | .dl .. => false
              | .ul .. => true
            timeLeft := if (x.clock.ms - e.deadline).toNat < 2147483648 then 0
              else (e.deadline - x.clock.ms).toNat }
        nextNumber := q.nextNumber, consecutiveTimeouts := q.consecutiveTimeouts
        grantTimeouts := q.grantTimeouts, unmatchedOutcomes := q.unmatchedOutcomes
        portLosses := q.portLosses, radioRestarts := q.radioRestarts, holdStalls := q.holdStalls
        params := q.params, resultAnomalies := q.resultAnomalies, rateIgnored := q.rateIgnored
        mainCount := q.mainRot.length, expCount := q.expRot.length, ulCount := q.ulRot.length
        mainHead := q.mainRot.head?.getD 512, budget := q.budget
        fullBudget := q.params.epochLength * 1000 * q.params.expShare / 100
        sinceUplink := q.sinceUplink, epochTimeLeft := q.epochTimer.getD 0
        suspendReason := q.suspendReason, tisCount := q.tis.length, dozeCount := inPs .doze
        serviceCount := inPs .service }
    let report (x : State) (free : Nat) : StatusReport :=
      { initializing := x.init.active, lossPending := x.cli.lossPending
        controlBadFrames := x.cli.badFrames, overruns := x.cli.overruns
        badFrames0 := x.port0.badFrames, discarded0 := x.port0.discarded
        badFrames1 := x.port1.badFrames, discarded1 := x.port1.discarded
        inboundCount := x.cli.inbound.length, noticeCount := x.cli.notices.length
        freeCount := free, queuedCount := inState x .queued, inFlightCount := inState x .inFlight
        doneCount := inState x .done, lifetimes := x.lifetimes, doneLength := x.done.length
        completionCount := (x.cli.notices.filter fun n => n.body.isCompletion).length
        coalTimer := x.coalTimer, monitor := x.monitor
        weights := [x.weight 0, x.weight 1, x.weight 2, x.weight 3, x.weight 4, x.weight 5,
          x.weight 6, x.weight 7]
        port0 := block x .zero, port1 := block x .one }
    (body ≠ [] → exec .status s = .next (s.replied 0xB0 tag .badRecord .nothing)) ∧
    (body = [] → s.init.active = true →
      exec .status s = .next (s.replied 0xB0 tag .ok (.status (report State.reset 4096)))) ∧
    (body = [] → s.init.active = false → s.slots.length ≤ 4096 → ∃ free,
      free + inState s .queued + inState s .inFlight + inState s .done = 4096 ∧
      exec .status s = .next (s.replied 0xB0 tag .ok (.status (report s free))))

/-! ### Presence, holds and discarded records (chapters 6 and 10) -/

/-- A HELLO on an ABSENT port: the depth clamped, the consecutive-timeout count 0, the port STOPPED, and
PRESENT placed. Every station, queue and rotation stands (R109). -/
def Obligations.HelloGreetsAnAbsentPort : Prop :=
  ∀ (p : PortNo) (depth : Byte) (s : State), s.init.active = false →
    (s.port p).state = .absent →
    exec (.hello p depth) s = .next { s.setPort p { s.port p with
        state := .stopped, depth := max 1 (min 4 depth.toNat), consecutiveTimeouts := 0
        huntCounted := false } with
      cli := s.cli.placed (.portEvent p .present .none) }

/-- A HELLO on a port that is present is a radio restart (R110): every grant of the port ends in issue order,
its frames LOST and its charges left standing (R122), every service period of the port ends (R161), a
departure that only waited for one of its windows completes (R16, R17, R123; assumption 10), the hold and the
timers are cleared, and the port is STOPPED with RESTARTED placed. Of the link it says that only SERVICE_EMPTY
records, each of a station in SERVICE, may follow on it; it does not say which of them, nor how many
(assumption 17). The Control Link has RESTARTED after the DEPART_DONEs of those departures, and ahead of every
COMPLETION notice that the lost frames bring, and of the departures these complete in turn, each formed as
R148 says while R147 has it formed. -/
def Obligations.HelloRestartsThePort : Prop :=
  ∀ (p : PortNo) (depth : Byte) (s : State), s.Coherent → s.init.active = false →
    (s.port p).state ≠ .absent →
    let q := s.port p
    let lost := q.inFlight.flatMap InFlight.slots
    let gone := s.departuresAt (q.inFlight.flatMap InFlight.invited)
    let cli := (s.cli.departed gone).placed (.portEvent p .restarted .none)
    (∃ t more, exec (.hello p depth) s = .next t ∧ t.cli.notices = cli.notices ++ more ∧
      (∀ n ∈ more, n.body.isCompletion = true ∨ ∃ i, n.body = .departDone i) ∧
      (t.port p).state = .stopped ∧ (t.port p).inFlight = [] ∧ s.SameParts t) ∧
    (∃ u t out, exec (.hello p depth) s = .next t ∧ u.Completes t ∧ s.SameParts u ∧
      s.Finishes u lost .lost ∧
      u.cli = cli ∧ s.Unmapped u gone ∧
      (∀ p', p' ≠ p → u.port p' = s.port p') ∧
      (∀ i, u.station i = if i ∈ gone then Station.vacantRecord
        else if (s.station i).port = p then
          (s.station i).afterLoss (i ∈ q.mainRot) (s.grantSlots i).length
        else s.station i) ∧
      (∀ x ∈ out, ∃ i, (s.station i).ps = .service ∧ x = .serviceEmpty (s.station i).assoc) ∧
      u.port p = { q with
        state := .stopped, hold := false, holdReason := .none, holdTimer := none
        depth := max 1 (min 4 depth.toNat), inFlight := [], consecutiveTimeouts := 0
        radioRestarts := min 65535 (q.radioRestarts + 1), epochTimer := none, resumeTimer := none
        suspendReason := .none, huntCounted := false
        mainRot := q.mainRot.filter fun i => (s.station i).ps != .service
        expRot := q.expRot.filter fun i => (s.station i).ps != .service
        assocMap := (u.port p).assocMap
        outbound := q.outbound ++ out })

/-- HOLD and RESUME (R129, R131). A HOLD sets the flag, keeps its reason, starts the hold timer with the
port's limit and places HOLD_BEGIN; a RESUME clears the three and places HOLD_END with the reason of the
hold it ends. A RESUME on an ABSENT port, or without a hold on a port that is not SUSPENDED, changes
nothing. On a SUSPENDED port it is a wake cause (R81), and decisions follow while the port, woken or RUNNING,
has an opportunity (R116). -/
def Obligations.HoldAndResumeMoveTheFlag : Prop :=
  (∀ (p : PortNo) (reason : Byte) (s : State), s.init.active = false →
    (s.port p).state ≠ .absent → (s.port p).hold = false →
    ∃ h, (reason = 1 → h = .channelChange) ∧ (reason = 2 → h = .beaconPrep) ∧
      (reason = 3 → h = .calibration) ∧ (reason ∉ [1, 2, 3] → h = .other) ∧
      exec (.hold p reason) s = .next { s.setPort p { s.port p with
          hold := true, holdReason := h, holdTimer := some (s.port p).params.holdLimit
          huntCounted := false } with
        cli := s.cli.placed (.portEvent p .holdBegin h) }) ∧
  (∀ (p : PortNo) (s : State), s.init.active = false →
    let q := s.port p
    (q.state = .absent ∨ q.hold = false ∧ q.state ≠ .suspended →
      exec (.resume p) s = .next (s.setPort p { q with huntCounted := false })) ∧
    (q.state = .stopped ∨ q.state = .draining → q.hold = true →
      exec (.resume p) s = .next { s.setPort p { q with
          hold := false, holdReason := .none, holdTimer := none, huntCounted := false } with
        cli := s.cli.placed (.portEvent p .holdEnd q.holdReason) }) ∧
    (q.state = .running ∨ q.state = .suspended → q.hold = true →
      ∃ t, exec (.resume p) s = .next t ∧
        { s.setPort p ({ q with
            hold := false, holdReason := .none, holdTimer := none
            huntCounted := false : Port }.woken True) with
          cli := s.cli.placed (.portEvent p .holdEnd q.holdReason) }.Decides t p ∧
        (t.port p).hold = false ∧ (t.port p).holdReason = .none ∧ (t.port p).holdTimer = none ∧
        (s.cli.notices.length < 64 →
          (⟨s.cli.lossPending, .portEvent p .holdEnd q.holdReason⟩ : Notice) ∈ t.cli.notices)) ∧
    (q.state = .suspended → q.hold = false → ∃ t, exec (.resume p) s = .next t ∧
      (s.setPort p ({ q with huntCounted := false : Port }.woken True)).Decides t p))

/-- The records that are discarded and counted, with no other effect: a DEMAND or PS_EVENT whose number
names no station or a DEPARTING one (R4, R91, R153), a PS_EVENT not taken in the station's PS state or of
no known kind (R153), a HOLD on an ABSENT or held port (R129), and a record that R178 discards by its type
or length. -/
def Obligations.DiscardedRecordsAreCounted : Prop :=
  ∀ (p : PortNo) (s : State), s.init.active = false →
    let counted (c : Instr) : Prop := exec c s = .next (s.setPort p { s.port p with
      discarded := min 65535 ((s.port p).discarded + 1), huntCounted := false })
    (∀ assoc : Half, ((s.port p).mapped assoc.toNat = none ∨
        ∃ i, (s.port p).mapped assoc.toNat = some i ∧ (s.station i).state = .departing) →
      (∀ bytes, counted (.demand p assoc bytes)) ∧ counted (.psEventDoze p assoc) ∧
      counted (.psEventWake p assoc) ∧ counted (.psEventTrigger p assoc)) ∧
    (∀ (assoc : Half) (i : Nat), (s.port p).mapped assoc.toNat = some i →
      ((s.station i).ps = .doze → counted (.psEventDoze p assoc)) ∧
      ((s.station i).ps = .awake → counted (.psEventWake p assoc)) ∧
      ((s.station i).ps ≠ .doze → counted (.psEventTrigger p assoc))) ∧
    (∀ (assoc : Half) (kind : Byte), 2 < kind.toNat → counted (.psEventDiscarded p assoc kind)) ∧
    (∀ reason, (s.port p).state = .absent ∨ (s.port p).hold = true → counted (.hold p reason)) ∧
    (∀ type body, decodeRadio p type body = .radioRecordDiscarded p type body →
      counted (.radioRecordDiscarded p type body))

/-! ### Demand and power save (chapters 5 and 8) -/

/-- A DEMAND for an ACTIVE station: its demand is stored, saturating at 16777215, and its uplink rotation
membership fits it; on leaving, the UL credit flag is cleared and a positive UL balance becomes 0; joining is
a wake cause (R90, R91, R93 to R95, R81), and decisions follow while a port so woken has an opportunity
(R116). -/
def Obligations.DemandIsStoredAndRetested : Prop :=
  ∀ (p : PortNo) (assoc : Half) (bytes : Word) (i : Nat) (s : State), s.Names p assoc.toNat i →
    let r := s.station i
    let q := s.port p
    let asks := r.ps = .awake ∧ bytes ≠ 0
    ∃ u t, exec (.demand p assoc bytes) s = .next t ∧
      (if q.state = .suspended then u.Decides t p else t = u) ∧
      s.SameParts u ∧ s.SamePool u ∧ s.SameOthers u i p ∧ u.cli = s.cli ∧
      u.station i = { r.leftUl (¬ asks ∧ i ∈ q.ulRot) with demand := min 16777215 bytes.toNat } ∧
      u.port p = { q with
        ulRot := if asks then if i ∈ q.ulRot then q.ulRot else q.ulRot ++ [i]
          else q.ulRot.filter (· != i)
        huntCounted := false : Port }.woken (asks ∧ i ∉ q.ulRot)

/-- A PS_EVENT DOZE for an AWAKE or SERVICE station (R154): the station is DOZE, in no rotation, with no
positive balance and no credit; a grant of its own in flight is revoked, once, and loses its
end-of-service flag (R127, R158); with frames queued the station stands in the Traffic Indication Set. -/
def Obligations.DozeTakesTheStationOffTheAir : Prop :=
  ∀ (p : PortNo) (assoc : Half) (i : Nat) (s : State), s.Names p assoc.toNat i →
    (s.station i).ps ≠ .doze → s.GrantsAgree →
    let r := s.station i
    let q := s.port p
    ∃ t, exec (.psEventDoze p assoc) s = .next t ∧ s.SameParts t ∧ s.SamePool t ∧
      s.SameOthers t i p ∧ t.cli = s.cli ∧
      t.station i = { (r.leftMain (i ∈ q.mainRot)).leftUl (i ∈ q.ulRot) with
        ps := .doze, allowance := 0, deadline := 0 } ∧
      t.port p = { (q.withoutDl i).withoutUl i with
        huntCounted := false
        inFlight := entriesWith q.inFlight i (r.ps = .service) true
        outbound := q.outbound ++ q.inFlight.filterMap fun e =>
          match e.work with
          | .dl j _ _ _ _ false => if j = i then some (.revoke e.number) else none
          | _ => none : Port }.fitTis i r.assoc r.hasQueued

/-- A PS_EVENT WAKE for a DOZE or SERVICE station (R155): the station is AWAKE and in every rotation it
qualifies for, from DOZE at their tails; it leaves the Traffic Indication Set; joining is a wake cause (R81),
and decisions follow while a port so woken has an opportunity (R116), none before the last of these effects
(the model's choice, assumption 32). -/
def Obligations.WakeBringsTheStationBack : Prop :=
  ∀ (p : PortNo) (assoc : Half) (i : Nat) (s : State), s.Names p assoc.toNat i →
    (s.station i).ps ≠ .awake → s.RotationsAgree →
    let r := s.station i
    let q := s.port p
    let dozed := r.ps = .doze
    ∃ u t, exec (.psEventWake p assoc) s = .next t ∧
      (if q.state = .suspended then u.Decides t p else t = u) ∧
      s.SameParts u ∧ s.SamePool u ∧ s.SameOthers u i p ∧ u.cli = s.cli ∧
      u.station i = { r with ps := .awake, allowance := 0, deadline := 0 } ∧
      u.port p = ({ q with
        huntCounted := false
        mainRot := if dozed ∧ r.hasQueued then q.mainRot ++ [i] else q.mainRot
        expRot := if dozed ∧ r.expFifo ≠ [] then q.expRot ++ [i] else q.expRot
        ulRot := if 0 < r.demand then q.ulRot ++ [i] else q.ulRot
        inFlight := entriesWith q.inFlight i (r.ps = .service) false : Port }.woken
          (dozed ∧ r.hasQueued ∨ 0 < r.demand)).fitTis i r.assoc False

/-- A PS_EVENT TRIGGER for a DOZE station (R156): with frames queued a service period begins, with the
station's frame limit as its allowance and the port's service timeout to its deadline, and the station joins
the main and expedited rotations, which is a wake cause (R81), and decisions follow while a port so woken has
an opportunity (R116), none before the last joining (the model's choice, assumption 32); with none queued it
is answered SERVICE_EMPTY, unless the port is ABSENT (R166), and stays DOZE. -/
def Obligations.TriggerOpensAServicePeriod : Prop :=
  ∀ (p : PortNo) (assoc : Half) (i : Nat) (s : State), s.Names p assoc.toNat i →
    (s.station i).ps = .doze → s.RotationsAgree →
    let r := s.station i
    let q := s.port p
    (r.hasQueued →
      ∃ u t, exec (.psEventTrigger p assoc) s = .next t ∧
        (if q.state = .suspended then u.Decides t p else t = u) ∧
        s.SameParts u ∧ s.SamePool u ∧ s.SameOthers u i p ∧ u.cli = s.cli ∧
        u.station i = { r with
          ps := .service, allowance := r.frameLimit
          deadline := s.clock.ms + BitVec.ofNat 32 q.params.serviceTimeout } ∧
        u.port p = ({ q with
          huntCounted := false, mainRot := q.mainRot ++ [i]
          expRot := if r.expFifo ≠ [] then q.expRot ++ [i] else q.expRot : Port }.woken True).fitTis i
            r.assoc True) ∧
    (¬ r.hasQueued → exec (.psEventTrigger p assoc) s = .next (s.setPort p { q with
      huntCounted := false
      outbound := if q.state = .absent then q.outbound
        else q.outbound ++ [.serviceEmpty r.assoc] }))

/-- A service deadline (R159). Before it is reached, or out of SERVICE, it is not taken. Taken, the
station is DOZE and in no rotation; its grant in flight is revoked, once (R127), else SERVICE_EMPTY is
sent unless the port is ABSENT (R166); the Traffic Indication Set still fits its queues. Timestamps are
compared over half their range (assumption 9). -/
def Obligations.ServiceDeadlineEndsTheService : Prop :=
  ∀ (i : Nat) (s : State),
    let r := s.station i
    let q := s.port r.port
    (r.ps ≠ .service ∨ 2147483648 ≤ (s.clock.ms - r.deadline).toNat →
      exec (.serviceDeadline i) s = .next s) ∧
    (r.ps = .service → (s.clock.ms - r.deadline).toNat < 2147483648 → s.GrantsAgree →
      ∃ t, exec (.serviceDeadline i) s = .next t ∧ s.SameParts t ∧ s.SamePool t ∧
        s.SameOthers t i r.port ∧ t.cli = s.cli ∧
        t.station i = { (r.leftMain (i ∈ q.mainRot)).leftUl (i ∈ q.ulRot) with
          ps := .doze, allowance := 0, deadline := 0 } ∧
        t.port r.port = { (q.withoutDl i).withoutUl i with
          inFlight := entriesWith q.inFlight i true true
          outbound := q.outbound ++ if r.dlInFlight then q.inFlight.filterMap fun e =>
              match e.work with
              | .dl j _ _ _ _ false => if j = i then some (.revoke e.number) else none
              | _ => none
            else if q.state = .absent then [] else [.serviceEmpty r.assoc] : Port }.fitTis i r.assoc
              r.hasQueued)

/-! ### Ends of grants and windows (chapters 5 to 7) -/

/-- An outcome that matches no entry of its kind is discarded and counted, and an entry of the other kind
stays in flight (R121). -/
def Obligations.UnmatchedOutcomesAreCounted : Prop :=
  ∀ (p : PortNo) (s : State), s.init.active = false →
    let q := s.port p
    let counted (c : Instr) : Prop := exec c s = .next (s.setPort p { q with
      unmatchedOutcomes := min 65535 (q.unmatchedOutcomes + 1), huntCounted := false })
    (∀ o : OutcomeRecord, (∀ e ∈ q.inFlight, e.number = o.number → ∃ l n, e.work = .ul l n) →
      counted (.outcome p o)) ∧
    (∀ o : UlOutcomeRecord,
      (∀ e ∈ q.inFlight, e.number = o.number → ∃ i t l n b c, e.work = .dl i t l n b c) →
      counted (.ulOutcome p o))

/-- A matched OUTCOME (R121, R136 to R144): each slot settled by the result at its place, a missing one UNSENT
and a strange one FAILED, anomalies counted once; UNSENT frames of an ACTIVE station back at the head of their
tier in slot-list order, of a DEPARTING one FLUSHED; the true-up, cut to 0 outside the main rotation; the
airtime, the rate followed or the report counted as ignored, the demand; the results fed to the Retry Monitor
one by one, its counts, and at each window they close the health, the consecutive-degraded count and a
STATION_HEALTH (R143, R169 to R172); and the entry gone. A station in SERVICE is handed off (R158): a grant
with the end-of-service flag puts it in DOZE with no record sent; without it a station with nothing queued has
run dry and goes to DOZE with a SERVICE_EMPTY (R160); either way it leaves its rotations (R65, R66) and stays
in the Traffic Indication Set while frames are queued. A departure left with nothing outstanding completes
(R16, R17), not before the grant has ended (assumption 10). The last entry of a DRAINING port completes the
drain: STOPPED, the epoch timer stopped, STOPPED placed behind any STATION_HEALTH and DEPART_DONE (R115).
After each frame that ends, the COMPLETION notices that R147 then has formed are formed (R148; that one may
stand between two frames is DEDUCED, assumption 18); at the end a SUSPENDED port is woken, and decisions
follow while there is an opportunity (R81, R116, R123). -/
def Obligations.OutcomeSettlesEachFrame : Prop :=
  ∀ (p : PortNo) (o : OutcomeRecord) (e : InFlight) (i : Nat) (tier : Tier) (slots : List Nat)
    (estimate : Nat) (eos revoked : Bool) (s : State), s.Coherent → s.init.active = false →
    e ∈ (s.port p).inFlight → e.number = o.number →
    e.work = .dl i tier slots estimate eos revoked →
    let r := s.station i
    let q := s.port p
    let drained := q.state = .draining ∧ q.inFlight = [e]
    let active := r.state = .active
    let result (j : Nat) : Result :=
      match o.results[j]? with
      | none => .unsent
      | some b => if b = 0 then .delivered else if b = 2 then .unsent else .failed
    let settled := slots.zip ((List.range slots.length).map result)
    let back := if active then (settled.filter (·.2 == .unsent)).map Prod.fst else []
    let ended := settled.filter fun x => !(decide active && x.2 == .unsent)
    let onAir := active ∧ r.ps ≠ .doze ∧ back ≠ []
    let queued := r.hasQueued ∨ back ≠ []
    let ends := r.ps = .service ∧ (eos = true ∨ ¬ queued)
    let member := i ∈ q.mainRot ∨ onAir
    let trued := max (-32768) (min 32767 (r.dlBalance + ((estimate : Int) - o.actual.toNat)))
    let code := o.rateCode.toNat
    let demand := if active then match o.demand with
        | some d => d.toNat
        | none => r.demand
      else r.demand
    let q1 (v : State) : Port := { v.port p with
      huntCounted := false
      consecutiveTimeouts := 0
      resultAnomalies :=
        if o.results.length ≠ slots.length ∨ ∃ b ∈ o.results, 2 < b.toNat then
          min 65535 (q.resultAnomalies + 1)
        else q.resultAnomalies
      rateIgnored := if r.rateMode = 0 ∧ (code = 0 ∨ 31 < code) then
          min 65535 (q.rateIgnored + 1)
        else q.rateIgnored
      inFlight := q.inFlight.filter fun x => x.number != o.number
      mainRot := if ends then q.mainRot.filter (· != i)
        else if onAir ∧ ¬ r.hasQueued then q.mainRot ++ [i] else q.mainRot
      expRot := if ends then q.expRot.filter (· != i)
        else if onAir ∧ tier = .expedited ∧ r.expFifo = [] then q.expRot ++ [i] else q.expRot
      ulRot := if demand = 0 then q.ulRot.filter (· != i)
        else if active ∧ r.ps = .awake ∧ i ∉ q.ulRot then q.ulRot ++ [i] else q.ulRot }
    let fed := r.fedAll s.monitor i (settled.map Prod.snd)
    ∃ v u t, exec (.outcome p o) s = .next t ∧ u.Decides t p ∧
      State.Each State.EndsOnAir (ended.map fun x => (i, x.1, match x.2 with
        | .delivered => .delivered
        | .failed => .failed
        | .unsent => .flushed)) s v ∧
      let r2 : Station := { (v.station i).leftUl (demand = 0 ∧ i ∈ q.ulRot) with
        expFifo := if tier = .expedited then back ++ r.expFifo else r.expFifo
        stdFifo := if tier = .standard then back ++ r.stdFifo else r.stdFifo
        dlBalance := if member ∧ ¬ ends then trued else min 0 trued
        mainCredited := if member ∧ ends then false else r.mainCredited
        airDl := r.airDl + o.actual.setWidth 32
        rateCode := if r.rateMode = 0 ∧ 1 ≤ code ∧ code ≤ 31 then code else r.rateCode
        demand := demand
        ps := if ends then .doze else r.ps
        allowance := if ends then 0 else r.allowance
        deadline := if ends then 0 else r.deadline
        health := fed.1.health
        attempts := fed.1.attempts
        failures := fed.1.failures
        degradedWindows := fed.1.degradedWindows
        dlInFlight := false }
      let gone := if r2.state = .departing ∧ r2.holding = 0 ∧ r2.unreported = 0 ∧ r2.ulInFlight = false
        then [i] else []
      let q2 := (q1 v).fitTis i r.assoc (r.ps ≠ .awake ∧ queued)
      let q3 : Port := { q2 with
        outbound := if ends ∧ eos = false then q2.outbound ++ [.serviceEmpty r.assoc] else q2.outbound
        assocMap := (u.port p).assocMap }
      v.SameParts u ∧ v.SameOthers u i p ∧ v.Unmapped u gone ∧
      u.cli = v.cli.placedAll (fed.2 ++ gone.map .departDone ++
        if drained then [.portEvent p .stopped .none] else []) ∧
      u.freeStack = v.freeStack ∧ u.done = v.done ∧ u.coalTimer = v.coalTimer ∧
      (∀ k, u.slot k = if k ∈ back then { s.slot k with state := .queued } else v.slot k) ∧
      u.station i = (if gone = [] then r2 else Station.vacantRecord) ∧
      u.port p = if drained then q3.drained else q3.woken True

/-- A matched UL_OUTCOME (R101 to R104): each invitee's true-up, cut to 0 outside the uplink rotation, its
airtime, and its new demand, from the first entry that names it or from 0, 0 and no demand where none does,
stopping at 0 and stored saturating at 16777215 (R90); entries that name no invitee, or one again, counted as
discarded. A DEPARTING invitee is trued up and timed like any other and its demand stands (R15, R103); with
nothing else of its own outstanding its departure completes: the record is VACANT, its map entry gone, and
DEPART_DONE placed, in invitation-list order (R16, R17, R123; assumption 10). The last entry of a DRAINING
port completes the drain: the port is STOPPED, its epoch timer stopped, and STOPPED placed behind the
DEPART_DONEs (R115). On any other a SUSPENDED port is woken, and decisions follow while there is an
opportunity (R81, R116, R123). That no decision comes before that, where an invitee that joins the rotation
has woken the port, is the model's choice (assumption 32). -/
def Obligations.UlOutcomeSettlesEachInvitee : Prop :=
  ∀ (p : PortNo) (o : UlOutcomeRecord) (e : InFlight) (invited : List Invitation) (total : Nat)
    (s : State), s.Coherent → s.init.active = false → e ∈ (s.port p).inFlight →
    e.number = o.number → e.work = .ul invited total →
    let q := s.port p
    let drained := q.state = .draining ∧ q.inFlight = [e]
    let entry (i : Nat) := o.entries.find? fun u => q.mapped u.assoc.toNat == some i
    let actual (i : Nat) : Nat := match entry i with
      | some u => u.actual.toNat
      | none => 0
    let stands (i : Nat) : Prop := (s.station i).state = .departing
    let demand (i : Nat) : Nat := if stands i then (s.station i).demand
      else match entry i with
        | some u => match u.demand with
          | some d => d.toNat
          | none => if u.bytes = 0 then 0 else min 16777215 ((s.station i).demand - u.bytes.toNat)
        | none => 0
    let stations := invited.map Invitation.station
    let gone := s.departuresAt stations
    let joins (i : Nat) : Bool := (s.station i).state == .active &&
      (s.station i).ps == .awake && decide (demand i ≠ 0) && !q.ulRot.contains i
    ∃ u t, exec (.ulOutcome p o) s = .next t ∧ u.Decides t p ∧ s.SameParts u ∧ s.SamePool u ∧
      u.cli = (if drained then (s.cli.departed gone).placed (.portEvent p .stopped .none)
        else s.cli.departed gone) ∧ s.Unmapped u gone ∧
      (∀ p', p' ≠ p → u.port p' = s.port p') ∧
      (∀ i, i ∉ stations → u.station i = s.station i) ∧
      (∀ v ∈ invited,
        let r := s.station v.station
        let trued := max (-32768) (min 32767
          (r.ulBalance + ((v.allotment : Int) - actual v.station)))
        let r1 := { r with
          ulBalance := if v.station ∈ q.ulRot then trued else min 0 trued }
        u.station v.station = if v.station ∈ gone then Station.vacantRecord
          else { r1.leftUl (demand v.station = 0 ∧ v.station ∈ q.ulRot) with
            demand := demand v.station
            airUl := r.airUl + BitVec.ofNat 32 (actual v.station)
            ulInFlight := false }) ∧
      let q1 : Port := { q with
        huntCounted := false
        consecutiveTimeouts := 0
        discarded := min 65535 (q.discarded +
          (o.entries.length - (stations.filter fun i => (entry i).isSome).length))
        inFlight := q.inFlight.filter fun x => x.number != o.number
        ulRot := (q.ulRot.filter fun i => !(stations.contains i && demand i == 0)) ++
          stations.filter joins
        assocMap := (u.port p).assocMap }
      u.port p = if drained then q1.drained else q1.woken True

/-- A grant timeout (R122 to R124). Before the deadline, or once the entry has ended, it is not taken. Taken
short of the third in a row: a downlink grant's frames are LOST and its charge stands, a window's charges
stand, the entry is gone and both counts rise; the last of a DRAINING port completes the drain, with STOPPED
placed (R115). A station in SERVICE is handed off (R158): a grant with the end-of-service flag puts it in DOZE
with no record sent; without it a station with nothing queued has run dry and goes to DOZE with a
SERVICE_EMPTY (R160); either way it leaves its rotations (R65, R66). A departure that the end leaves with
nothing outstanding completes, its DEPART_DONE ahead of STOPPED (R16, R17, R123), not before the grant has
ended (assumption 10). After each lost frame the COMPLETION notices that R147 then has formed are formed
(R148; that one may stand between two frames is DEDUCED, assumption 18); at the end a SUSPENDED port is woken,
and decisions follow while there is an opportunity (R81, R116, R123). -/
def Obligations.GrantTimeoutLosesTheGrant : Prop :=
  ∀ (p : PortNo) (s : State),
    let q := s.port p
    (∀ n, (∀ e ∈ q.inFlight, e.number = n →
        (s.clock.ms - e.issueTime).toNat < (e.deadline - e.issueTime).toNat) →
      exec (.grantTimeout p n) s = .next s) ∧
    ∀ e ∈ q.inFlight, s.Coherent → q.consecutiveTimeouts < 2 →
      (e.deadline - e.issueTime).toNat ≤ (s.clock.ms - e.issueTime).toNat →
      let drained := q.state = .draining ∧ q.inFlight = [e]
      let q1 (v : State) : Port := { v.port p with
        inFlight := q.inFlight.filter fun x => x.number != e.number
        grantTimeouts := min 65535 (q.grantTimeouts + 1)
        consecutiveTimeouts := q.consecutiveTimeouts + 1 }
      let ported (v u : State) (gone : List Nat) (q2 : Port) : Prop :=
        v.SameParts u ∧ v.SamePool u ∧ v.Unmapped u gone ∧
        u.port p = (let q3 := { q2 with assocMap := (u.port p).assocMap }
          if drained then q3.drained else q3.woken True) ∧
        u.cli = if drained then (v.cli.departed gone).placed (.portEvent p .stopped .none)
          else v.cli.departed gone
      ∃ u t, exec (.grantTimeout p e.number) s = .next t ∧ u.Decides t p ∧
      match e.work with
      | .dl i _ slots _ eos _ => ∃ v, State.Each State.EndsOnAir (slots.map (i, ·, .lost)) s v ∧
        let r := v.station i
        let ends := r.ps = .service ∧ (eos = true ∨ ¬ r.hasQueued)
        let r1 := if ends then { r.leftMain (i ∈ q.mainRot) with
            ps := .doze, allowance := 0, deadline := 0 }
          else r
        let gone := if r.state = .departing ∧ r.holding = 0 ∧ r.unreported = 0 ∧ r.ulInFlight = false
          then [i] else []
        v.SameOthers u i p ∧
        ported v u gone { q1 v with
          mainRot := if ends then q.mainRot.filter (· != i) else q.mainRot
          expRot := if ends then q.expRot.filter (· != i) else q.expRot
          outbound := if ends ∧ eos = false then q.outbound ++ [.serviceEmpty r.assoc]
            else q.outbound } ∧
        u.station i = if gone = [] then { r1 with dlInFlight := false } else Station.vacantRecord
      | .ul invited _ =>
        let gone := s.departuresAt (invited.map Invitation.station)
        (∀ p', p' ≠ p → u.port p' = s.port p') ∧ ported s u gone (q1 s) ∧
        ∀ i, u.station i = if i ∈ gone then Station.vacantRecord
          else if e.invites i then { s.station i with ulInFlight := false }
          else s.station i

/-- The third grant timeout in a row loses the port (R125, R126): its own frames and then those of every other
entry in issue order are LOST, every service period of the port ends, a departure that only waited for one of
its windows completes (R16, R17, R123; assumption 10), the hold and the timers are cleared, and the port is
ABSENT with LOST placed. Of the link it says that only SERVICE_EMPTY records, each of a station in SERVICE,
may follow on it; it does not say which of them, nor how many (assumption 17). The budget, the configuration,
the rotations, the depth and the next number stand. The Control Link has LOST after the DEPART_DONEs of those
departures, and ahead of every COMPLETION notice that the lost frames bring, and of the departures these
complete in turn. That LOST stands ahead of the COMPLETION notices of the third timeout's own frames too is
the model's reading (DEDUCED, assumption 18); for the frames of the other entries the order is R126's. Each of
those notices is formed as R148 says, while R147 has it formed. -/
def Obligations.ThirdTimeoutLosesThePort : Prop :=
  ∀ (p : PortNo) (e : InFlight) (s : State), s.Coherent → e ∈ (s.port p).inFlight →
    (s.port p).consecutiveTimeouts = 2 →
    (e.deadline - e.issueTime).toNat ≤ (s.clock.ms - e.issueTime).toNat →
    let q := s.port p
    let others := q.inFlight.filter fun x => x.number != e.number
    let lost := e.slots ++ others.flatMap InFlight.slots
    let gone := s.departuresAt (e.invited ++ others.flatMap InFlight.invited)
    let cli := (s.cli.departed gone).placed (.portEvent p .lost .none)
    (∃ t more, exec (.grantTimeout p e.number) s = .next t ∧ t.cli.notices = cli.notices ++ more ∧
      (∀ n ∈ more, n.body.isCompletion = true ∨ ∃ i, n.body = .departDone i) ∧
      (t.port p).state = .absent ∧ (t.port p).inFlight = [] ∧ s.SameParts t) ∧
    (∃ u t out, exec (.grantTimeout p e.number) s = .next t ∧ u.Completes t ∧ s.SameParts u ∧
      s.Finishes u lost .lost ∧
      u.cli = cli ∧ s.Unmapped u gone ∧
      (∀ p', p' ≠ p → u.port p' = s.port p') ∧
      (∀ i, u.station i = if i ∈ gone then Station.vacantRecord
        else if (s.station i).port = p then
          (s.station i).afterLoss (i ∈ q.mainRot) (s.grantSlots i).length
        else s.station i) ∧
      (∀ x ∈ out, ∃ i, (s.station i).ps = .service ∧ x = .serviceEmpty (s.station i).assoc) ∧
      u.port p = { q with
        state := .absent, hold := false, holdReason := .none, holdTimer := none, inFlight := []
        consecutiveTimeouts := 0, grantTimeouts := min 65535 (q.grantTimeouts + 1)
        portLosses := min 65535 (q.portLosses + 1), epochTimer := none, resumeTimer := none
        suspendReason := .none
        mainRot := q.mainRot.filter fun i => (s.station i).ps != .service
        expRot := q.expRot.filter fun i => (s.station i).ps != .service
        assocMap := (u.port p).assocMap
        outbound := q.outbound ++ out })

/-! ### Timers (R82, R86, R130, R146) -/

/-- The epoch timer and the resume timer. Not expired, neither is taken. An epoch (R86) refills the budget,
restarts the timer and wakes a SUSPENDED port (R81), and decisions follow while a port so woken has an
opportunity (R116). Its sweep leaves no dozing station's head past its lifetime (R165): for each dozing
station of the port in ascending order, EXPEDITED first, the heads past their lifetime are DONE EXPIRED and
join the Done List in that order, its holding falls and its unreported count rises by their number (R35, R36),
and a station whose queues they empty leaves the Traffic Indication Set with a REMOVE (R162, R163); after
each, the COMPLETION notices that R147 then has formed are formed (R148; that one may stand between two frames
is DEDUCED, assumption 18). A resume timer's expiry is a wake cause (R82). -/
def Obligations.EpochAndResumeTimersExpire : Prop :=
  ∀ (p : PortNo) (s : State),
    let q := s.port p
    let past (k : Nat) : Bool :=
      let life := match (s.slot k).tier with
        | .expedited => s.lifetimes.expedited
        | .standard => s.lifetimes.standard
      decide (life ≠ 0 ∧ life < (s.clock.ms - (s.slot k).enqueued).toNat)
    let dozes (i : Nat) : Bool := (s.station i).port == p && (s.station i).ps == .doze
    let stale (i : Nat) : List Nat := if dozes i then
        (s.station i).expFifo.takeWhile past ++ (s.station i).stdFifo.takeWhile past
      else []
    let expired := (List.range 512).flatMap stale
    let heads (i : Nat) : List (Nat × Tier × Nat) := if dozes i then
        ((s.station i).expFifo.takeWhile past).map (i, .expedited, ·) ++
          ((s.station i).stdFifo.takeWhile past).map (i, .standard, ·)
      else []
    let refilled (q : Port) : Port := { q with
      budget := q.params.epochLength * 1000 * q.params.expShare / 100
      epochTimer := some q.params.epochLength }
    let decides (u t : State) : Prop := if q.state = .suspended then u.Decides t p else t = u
    let emptied (i : Nat) : Bool := dozes i && !(stale i).isEmpty &&
      (s.station i).expFifo.all past && (s.station i).stdFifo.all past
    (q.epochTimer ≠ some 0 → exec (.epochExpiry p) s = .next s) ∧
    (q.resumeTimer ≠ some 0 → exec (.resumeTimerExpiry p) s = .next s) ∧
    (q.epochTimer = some 0 → (∀ i, (s.station i).port = p → (s.station i).ps ≠ .doze) →
      ∃ t, exec (.epochExpiry p) s = .next t ∧ decides (s.setPort p ((refilled q).woken True)) t) ∧
    (q.epochTimer = some 0 → s.Coherent → ∃ t, exec (.epochExpiry p) s = .next t ∧
      (t.port p).epochTimer = some q.params.epochLength ∧
      ∀ i, (s.station i).port = p → (s.station i).ps = .doze →
        (t.station i).ps = .doze ∧ (t.station i).dlBalance = (s.station i).dlBalance ∧
        ∀ tier k rest, (t.station i).fifo tier = k :: rest →
          let life := match tier with
            | .expedited => s.lifetimes.expedited
            | .standard => s.lifetimes.standard
          life = 0 ∨ (s.clock.ms - (s.slot k).enqueued).toNat ≤ life) ∧
    (q.epochTimer = some 0 → s.Coherent → s.Canonical →
      ∃ v t, exec (.epochExpiry p) s = .next t ∧
        State.Each (State.EndsHead .expired) ((List.range 512).flatMap heads) s v ∧
        decides (v.setPort p ((refilled (v.port p)).woken True)) t ∧
        (s.Quiet expired.length → s.SameParts v ∧ s.Finishes v expired .expired ∧
          v.cli = s.cli ∧ (∀ p', p' ≠ p → v.port p' = s.port p') ∧
          (∀ i, v.station i = if dozes i then { s.station i with
              expFifo := (s.station i).expFifo.dropWhile past
              stdFifo := (s.station i).stdFifo.dropWhile past
              holding := (s.station i).holding - (stale i).length
              unreported := (s.station i).unreported + (stale i).length }
            else s.station i) ∧
          v.port p = { q with
            tis := q.tis.filter fun i => !emptied i
            outbound := q.outbound ++ ((List.range 512).filter emptied).map fun i =>
              .timUpdate .remove (s.station i).assoc })) ∧
    (q.resumeTimer = some 0 → q.state = .suspended →
      ∃ t, exec (.resumeTimerExpiry p) s = .next t ∧
        (s.setPort p { q with
          state := .running, suspendReason := .none, resumeTimer := none }).Decides t p)

/-- R130: an expiry of the hold timer while the flag is set places STALLED, counts a stall and stops the
timer, and changes nothing else; an expiry that has not come, or without the flag, is not taken. -/
def Obligations.HoldTimerExpiryPlacesStalled : Prop :=
  ∀ (p : PortNo) (s : State),
    let q := s.port p
    (q.holdTimer ≠ some 0 ∨ q.hold = false → exec (.holdTimerExpiry p) s = .next s) ∧
    (q.holdTimer = some 0 → q.hold = true →
      exec (.holdTimerExpiry p) s = .next { s.setPort p { q with
          holdTimer := none, holdStalls := min 65535 (q.holdStalls + 1) } with
        cli := s.cli.placed (.portEvent p .stalled q.holdReason) })

/-- COMPLETION notices (R146 to R148, R41). The coalescing timer's expiry, a notice that leaves the queue and
a slot that joins the Done List are each followed by the test of R147, and as many COMPLETION notices are
formed, one after another, as it has formed. Each reports the lesser of 16 slots and the whole list, in its
order, each entry with the handle, station and status of its slot; the slots are FREE and on the free stack,
the last entry's on top; the unreported counts fall; a departure that this leaves with nothing outstanding
completes, its DEPART_DONE behind the COMPLETION (R16, R17; assumption 10); and the timer is set from the new
head or stopped. Without room the timer has expired and nothing is formed. In particular a list of at most 16
slots is reported by the timer in one notice, and a sixteenth slot with the fifteen before it at once. -/
def Obligations.CoalescedSlotsAreReported : Prop :=
  let completions (c : ControlLink) : Nat := (c.notices.filter fun n => n.body.isCompletion).length
  let room (c : ControlLink) : Prop := completions c < 48 ∧ c.notices.length < 64
  (∀ (d : DoneEntry) (rest : List DoneEntry) (s : State), s.done = d :: rest →
    let waited := s.coalTimer = .running ∧
      s.lifetimes.coalescing ≤ (s.clock.us - d.joined).toNat
    (¬ waited → exec .coalescingTimerExpiry s = .next s) ∧
    (waited → ¬ room s.cli →
      exec .coalescingTimerExpiry s = .next { s with coalTimer := .expired }) ∧
    (waited → (s.done.map DoneEntry.slot).Nodup → ∃ t, exec .coalescingTimerExpiry s = .next t ∧
      { s with coalTimer := .expired }.Completes t ∧
      (room s.cli → s.done.length ≤ 16 → s.Reports t (s.done.map DoneEntry.slot)))) ∧
  (∀ (n : Notice) (rest : List Notice) (s : State), s.cli.notices = n :: rest →
    (s.cli.reply = none ∧ s.cli.sending = none ∨ ∃ k, s.cli.sending = some ⟨.notice, k⟩) →
    (s.done.map DoneEntry.slot).Nodup →
    ∃ t, exec .noticeSent s = .next t ∧
      { s with cli := { s.cli with notices := rest, sending := none } }.Completes t) ∧
  (∀ (k : Nat) (s : State), (s.done.map DoneEntry.slot ++ [k]).Nodup →
    let joined : State := { s with
      done := s.done ++ [⟨k, s.clock.us⟩]
      coalTimer := if s.done = [] then s.startedTimer else s.coalTimer }
    joined.Completes (s.joinDone k) ∧
    (s.done.length = 15 → room s.cli →
      joined.Reports (s.joinDone k) (s.done.map DoneEntry.slot ++ [k])))

/-! ### Decisions and what they issue (chapters 3 to 6) -/

/-- A decision made at an opportunity (R71 to R80, R82): it issues one grant or window, or it issues
nothing and leaves the port SUSPENDED with a reason, the resume timer armed for 1 ms under an examination
limit and disarmed otherwise. A port with no enabled code is SUSPENDED with NO_RATES and nothing else. A
decision never raises the budget, nor changes a parameter, a rate, the depth, the hold or the epoch
timer. Which step serves, and what it credits and charges, with the books in agreement: with budget left,
the first member of the expedited rotation without a grant in flight is served by a take from EXPEDITED,
uncredited, charged its estimate, which the budget loses too (R60, R69, R73); else a due uplink turn issues
the window it collects (R75); else the main rotation's first member without a grant in flight is credited
its quantum once (R58, R68) and, above 0, is served and charged (R76, R77), at or below 0 moved to the tail,
uncredited, with the walk going on behind it; else an uplink window is tried where the ratio allows (R79);
else the port is SUSPENDED, IDLE, or with EXAMINATION_LIMIT where 64 examinations bring no member above 0
(R80). A downlink grant raises the downlink-since-uplink count up to 15 (R78). -/
def Obligations.DecisionIssuesOnceOrSuspends : Prop :=
  ∀ (p : PortNo) (s : State), (s.port p).hasOpportunity = true →
    let q := s.port p
    let t := s.decision p
    let r := t.port p
    let noCode : Prop := ∀ c, 1 ≤ c → c ≤ 31 → (q.rate c).enabled = false
    let busy (i : Nat) : Prop := (s.station i).dlInFlight = true
    let noExpedited : Prop := q.budget = 0 ∨ ∀ i ∈ q.expRot, busy i
    let turn : Prop := 0 < q.params.ulRatio ∧ q.params.ulRatio ≤ q.sinceUplink ∧ q.ulRot ≠ []
    let sat (x : Int) : Int := max (-32768) (min 32767 x)
    let suspended (reason : SuspendReason) (resume : Option Nat) : Prop := t = s.setPort p { q with
      state := .suspended, suspendReason := reason, resumeTimer := resume }
    let issued (i : Nat) (tier : Tier) (balance : Int) : Prop :=
      let k := s.takeTier i tier
      let charged := sat (balance - k.estimate)
      (∃ e eos, r.inFlight = q.inFlight ++ [e] ∧ e.work = .dl i tier k.slots k.estimate eos false) ∧
      r.sinceUplink = min 15 (q.sinceUplink + 1) ∧
      (t.station i).dlBalance = if i ∈ r.mainRot then charged else min 0 charged
    (noCode → suspended .noRates none) ∧
    ((r.inFlight.length = q.inFlight.length + 1 ∧ r.state = .running) ∨
      (r.inFlight.map InFlight.number = q.inFlight.map InFlight.number ∧ r.state = .suspended ∧
        r.suspendReason ≠ .none ∧
        r.resumeTimer = if r.suspendReason = .examinationLimit then some 1000 else none)) ∧
    (r.budget ≤ q.budget ∧ r.params = q.params ∧ r.rates = q.rates ∧ r.depth = q.depth ∧
      r.hold = q.hold ∧ r.epochTimer = q.epochTimer) ∧
    (s.Books → ¬ noCode →
      (∀ ahead i rest, 0 < q.budget → q.expRot = ahead ++ i :: rest → (∀ j ∈ ahead, busy j) →
        ¬ busy i → (s.takeTier i .expedited).slots ≠ [] →
        issued i .expedited (s.station i).dlBalance ∧
        r.budget = q.budget - (s.takeTier i .expedited).estimate ∧
        (t.station i).mainCredited = decide (i ∈ r.mainRot ∧ (s.station i).mainCredited = true) ∧
        r.expRot = ahead ++ rest ++ if (t.station i).expFifo = [] then [] else [i]) ∧
      (noExpedited → turn → ∀ s1 invited total, collect 64 p 0 [] 0 s = (s1, invited, total) →
        invited ≠ [] → t = s1.issueUl p invited total) ∧
      (noExpedited → ¬ turn → ∀ ahead i rest, q.mainRot = ahead ++ i :: rest → ahead.length < 64 →
        (∀ j ∈ ahead, busy j) → ¬ busy i →
        let x := s.station i
        let balance := if x.mainCredited then x.dlBalance
          else sat (x.dlBalance + quantum q.params.dlQuantum (s.weight x.cls) s.monitor x.health)
        let tier : Tier := if x.expFifo = [] then .standard else .expedited
        (0 < balance → (s.takeTier i tier).slots ≠ [] → issued i tier balance ∧ r.budget = q.budget ∧
          let stays := 0 < balance - (s.takeTier i tier).estimate
          (t.station i).mainCredited = decide (i ∈ r.mainRot ∧ stays) ∧
          r.mainRot = if i ∉ r.mainRot then ahead ++ rest
            else if stays then q.mainRot else ahead ++ rest ++ [i]) ∧
        (balance ≤ 0 → ∀ n gone, mainStep (n + 1) p ahead.length gone s =
          mainStep n p ahead.length gone ((s.setPort p { q with
            mainRot := ahead ++ rest ++ [i] }).setStation i { x with
              dlBalance := balance, mainCredited := false }))) ∧
      (noExpedited → ¬ turn → (∀ j ∈ q.mainRot, busy j) →
        (0 < q.params.ulRatio → q.ulRot ≠ [] → ∀ s1 invited total,
          collect 64 p 0 [] 0 s = (s1, invited, total) → invited ≠ [] →
          t = s1.issueUl p invited total) ∧
        (q.params.ulRatio = 0 ∨ q.ulRot = [] → q.mainRot.length < 64 → suspended .idle none)) ∧
      (noExpedited → q.params.ulRatio = 0 ∨ q.ulRot = [] → (∃ i ∈ q.mainRot, ¬ busy i) →
        (∀ i ∈ q.mainRot, ¬ busy i → -32768 ≤ (s.station i).dlBalance ∧ (s.station i).dlBalance +
          64 * quantum q.params.dlQuantum (s.weight (s.station i).cls) s.monitor
            (s.station i).health ≤ 0) →
        r.state = .suspended ∧ r.suspendReason = .examinationLimit ∧ r.resumeTimer = some 1000 ∧
          r.inFlight = q.inFlight))

/-- A take (R37, R38, R53, R54, R36, R67), with the books in agreement: it works through the FIFO from its
head, and what it does not reach stands. Of the frames it passes, each past its lifetime is DONE EXPIRED and
on the Done List in order (said of a take that brings no COMPLETION notice), and every other is IN_FLIGHT
and in the slot list, in FIFO order; so a FIFO with one unexpired frame never yields an empty take. The take
ends where the FIFO does, at the size limit, behind a solo frame, or before an unexpired frame that is solo
or would pass the airtime cap. The size limit is the port's aggregate limit, cut to the degraded one for a
DEGRADED station and to the allowance left for one in SERVICE (R53, R174). The rate entry is that of the
effective code: the code the station names, if enabled, else the highest enabled code below it, else the
lowest above it (R49). A solo frame goes alone. The estimate is that of exactly the frames taken,
within the cap for more than one; the DL balance stands. -/
def Obligations.TakeKeepsWithinItsLimits : Prop :=
  ∀ (i : Nat) (tier : Tier) (s : State), s.Books → (s.station i).state = .active →
    let r := s.station i
    let q := s.port r.port
    let taken := s.takeTier i tier
    let k := taken.slots
    let healthy := q.params.aggLimit
    let limit0 := if r.health = .degraded then min healthy s.monitor.aggLimit else healthy
    let limit := if r.ps = .service then min limit0 r.allowance else limit0
    let rate := q.effectiveRate r
    let life := match tier with
      | .expedited => s.lifetimes.expedited
      | .standard => s.lifetimes.standard
    let past (j : Nat) : Bool :=
      decide (life ≠ 0 ∧ life < (s.clock.ms - (s.slot j).enqueued).toNat)
    let cost (l : List Nat) : Nat :=
      dlEstimate rate q.params.trim (l.map fun j => (s.slot j).length)
    (∀ c, q.IsEffective r c → rate = q.rate c) ∧
    ∃ passed rest, r.fifo tier = passed ++ rest ∧ (taken.state.station i).fifo tier = rest ∧
      k = passed.filter (fun j => !past j) ∧
      ((∃ j ∈ r.fifo tier, past j = false) → k ≠ []) ∧
      (match rest with
        | [] => True
        | j :: _ => max 1 limit = k.length ∨ (∃ j0, k = [j0] ∧ (s.slot j0).solo = true) ∨
          past j = false ∧ k ≠ [] ∧ ((s.slot j).solo = true ∨ q.params.airtimeCap < cost (k ++ [j]))) ∧
      k.length ≤ max 1 limit ∧
      (∀ j ∈ k, taken.state.slot j = { s.slot j with state := .inFlight }) ∧
      (k ≠ [] → taken.estimate = cost k) ∧
      (2 ≤ k.length → taken.estimate ≤ q.params.airtimeCap ∧ ∀ j ∈ k, (s.slot j).solo = false) ∧
      (taken.state.station i).dlBalance = r.dlBalance ∧
      (s.Quiet (passed.filter past).length →
        let expired := passed.filter past
        s.SameParts taken.state ∧ taken.state.cli = s.cli ∧ taken.state.freeStack = s.freeStack ∧
        taken.state.done = s.done ++ expired.map (fun j => ⟨j, s.clock.us⟩) ∧
        (∀ j, taken.state.slot j =
          if j ∈ expired then { s.slot j with state := .done, status := .expired }
          else if j ∈ k then { s.slot j with state := .inFlight } else s.slot j) ∧
        (∀ j, j ≠ i → taken.state.station j = s.station j) ∧
        (taken.state.station i).holding = r.holding - expired.length ∧
        (taken.state.station i).unreported = r.unreported + expired.length)

/-- The issue of a downlink grant (R118, R119, R157, R78): the next number that no entry holds, an entry
at the tail with its deadline a grant timeout ahead, the GRANT to the radio with the frames in slot-list
order, and for a station in SERVICE the allowance less the frames taken and the end-of-service flag where
none of either is left. -/
def Obligations.IssueNumbersRecordsAndSends : Prop :=
  ∀ (p : PortNo) (i : Nat) (tier : Tier) (slots : List Nat) (estimate : Nat) (s : State),
    (s.port p).inFlight.length ≤ 4 →
    let r := s.station i
    let q := s.port p
    let left := r.allowance - slots.length
    let eos := decide (r.ps = .service ∧ (left = 0 ∨ ¬ r.hasQueued))
    let live (n : Byte) : Prop := ∃ e ∈ q.inFlight, e.number = n
    let t := s.issueDl p i tier slots estimate
    ∃ n : Byte, ¬ live n ∧ (∀ j < (n - q.nextNumber).toNat, live (q.nextNumber + BitVec.ofNat 8 j)) ∧
      s.SameParts t ∧ s.SamePool t ∧ s.SameOthers t i p ∧ t.cli = s.cli ∧
      t.station i = { r with
        dlInFlight := true, allowance := if r.ps = .service then left else r.allowance } ∧
      t.port p = { q with
        inFlight := q.inFlight ++ [⟨n, s.clock.ms,
          s.clock.ms + BitVec.ofNat 32 q.params.grantTimeout,
          .dl i tier slots estimate eos false⟩]
        nextNumber := n + 1
        sinceUplink := min 15 (q.sinceUplink + 1)
        outbound := q.outbound ++ [.grant n r.assoc tier eos estimate
          (slots.map fun k => ((s.slot k).handle, (s.slot k).length))] }

/-- Collection and the issue of a window (R96 to R100), with the books in agreement: at most the maximum of
stations are invited, each in the uplink rotation with a positive balance and no window in flight; the total
is the sum of the allotments and is within the window length unless one station is invited alone. An allotment
is that of R56 for the station's demand, the port's trim and window length, and the rate entry of the
station's effective code: the code it names, if enabled, else the highest enabled code below it, else the
lowest above it (R49). The first
member within the 64 examinations that has no window in flight and, credited its quantum, a balance above 0
is invited first, whatever stands ahead of it. Where every member is so, the members are invited in order
until the rotation ends, the maximum is reached, or the next allotment would pass the window length. Each
invitee is then charged its allotment and flagged, those left at or below 0 go to the tail in list order,
uncredited, and the downlink-since-uplink count is 0. -/
def Obligations.WindowsInviteWithinTheLength : Prop :=
  ∀ (p : PortNo) (s : State), s.Books → 1 ≤ (s.port p).params.ulMax →
    let q := s.port p
    let sat (x : Int) : Int := max (-32768) (min 32767 x)
    let busy (i : Nat) : Prop := (s.station i).ulInFlight = true
    let credited (i : Nat) : Int :=
      let x := s.station i
      if x.ulCredited then x.ulBalance
      else sat (x.ulBalance + quantum q.params.ulQuantum (s.weight x.cls) s.monitor x.health)
    let (s1, invited, total) := collect 64 p 0 [] 0 s
    let names := invited.map Invitation.station
    let t := s1.issueUl p invited total
    let spent := (invited.filter fun v =>
      decide ((s1.station v.station).ulBalance ≤ v.allotment)).map Invitation.station
    invited.length ≤ q.params.ulMax ∧ names.Nodup ∧
    total = (invited.map Invitation.allotment).sum ∧
    (∀ i c, q.IsEffective (s.station i) c → s.allotment p i =
      ulAllotment (q.rate c) q.params.trim q.params.windowLength (s.station i).demand) ∧
    (2 ≤ invited.length → total ≤ q.params.windowLength) ∧
    (∀ ahead i rest, q.ulRot = ahead ++ i :: rest → ahead.length < 64 → ¬ busy i → 0 < credited i →
      (∀ j ∈ ahead, busy j ∨ credited j ≤ 0) →
      names.head? = some i ∧ (s1.station i).ulBalance = credited i) ∧
    ((∀ i ∈ q.ulRot, ¬ busy i ∧ 0 < credited i) → q.ulRot.length ≤ 64 →
      names = q.ulRot.take names.length ∧ (∀ i ∈ names, (s1.station i).ulBalance = credited i) ∧
      (names.length < q.ulRot.length → names.length < q.params.ulMax →
        ∃ j, q.ulRot[names.length]? = some j ∧ q.params.windowLength < total + s.allotment p j)) ∧
    (∀ v ∈ invited, v.station ∈ q.ulRot ∧ (s.station v.station).ulInFlight = false ∧
      0 < (s1.station v.station).ulBalance ∧ v.allotment = s.allotment p v.station ∧
      (t.station v.station).ulInFlight = true ∧
      (t.station v.station).ulBalance = sat ((s1.station v.station).ulBalance - v.allotment)) ∧
    (t.port p).ulRot = ((s1.port p).ulRot.filter fun i => !spent.contains i) ++ spent ∧
    (∀ i ∈ spent, (t.station i).ulCredited = false) ∧
    (t.port p).sinceUplink = 0 ∧
    ∃ e, (t.port p).inFlight = q.inFlight ++ [e] ∧ e.work = .ul invited total ∧
      e.issueTime = s.clock.ms ∧
      e.deadline = s.clock.ms + BitVec.ofNat 32 q.params.grantTimeout ∧
      (t.port p).outbound = q.outbound ++ [.ulWindow e.number total
        (invited.map fun v => ((s.station v.station).assoc, v.allotment))]

/-- The airtime arithmetic of chapter 3, exact: payload times rounded up, the estimate held to 1 to 65535
(R51, R52), the allotment's slice between 64 and an eighth of the window (R56), and the quantum scaled by
the weight and cut for a DEGRADED station, never 0 (R58). -/
def Obligations.AirtimeArithmeticIsExact : Prop :=
  (∀ rate bytes : Nat, 0 < rate → 16 * bytes ≤ payloadTime rate bytes * rate ∧
    payloadTime rate bytes * rate < 16 * bytes + rate) ∧
  (∀ (c : RateEntry) (trim : Int) (lengths : List Nat),
    let bytes := lengths.sum + lengths.length * c.frameOverhead
    let raw : Int := c.grantOverhead + 4 * trim + payloadTime c.rate bytes
    1 ≤ dlEstimate c trim lengths ∧ dlEstimate c trim lengths ≤ 65535 ∧
    (raw < 1 → dlEstimate c trim lengths = 1) ∧
    (65535 < raw → dlEstimate c trim lengths = 65535) ∧
    (1 ≤ raw → raw ≤ 65535 → (dlEstimate c trim lengths : Int) = raw)) ∧
  (∀ (c : RateEntry) (trim : Int) (w d : Nat), -7 ≤ trim → ∃ slice : Nat,
    (ulAllotment c trim w d : Int) = c.grantOverhead + 4 * trim + slice ∧ 64 ≤ slice ∧
    (64 < slice → slice ≤ w / 8 ∧ slice ≤ payloadTime c.rate (min d 65535 + c.frameOverhead)) ∧
    (slice < w / 8 → payloadTime c.rate (min d 65535 + c.frameOverhead) ≤ slice)) ∧
  (∀ (portQuantum weight : Nat) (m : MonitorSettings),
    let full := quantum portQuantum weight m .healthy
    (full = portQuantum * weight / 16 ∨ portQuantum * weight < 16 ∧ full = 1) ∧
    let cut := quantum portQuantum weight m .degraded
    (cut = full * m.percent / 100 ∨ full * m.percent < 100 ∧ cut = 1) ∧ 1 ≤ full ∧ 1 ≤ cut)

/-- The Retry Monitor (R169 to R172): an UNSENT result changes nothing; any other raises the attempts, a
FAILED one the failures; at the window the health follows the thresholds, the consecutive-degraded count
rises or is 0, a change of health places STATION_HEALTH with the window's failures, and the counters are
0. -/
def Obligations.MonitorWindowsCloseByThresholds : Prop :=
  ∀ (i : Nat) (res : Result) (s : State),
    let r := s.station i
    let m := s.monitor
    let failures := if res = .failed then r.failures + 1 else r.failures
    (res = .unsent → s.feed i res = s) ∧
    (res ≠ .unsent → ∃ t, s.feed i res = t ∧ s.SameParts t ∧ s.SamePool t ∧
      (∀ p, t.port p = s.port p) ∧ (∀ j, j ≠ i → t.station j = s.station j) ∧
      (r.attempts + 1 < m.window → t.cli = s.cli ∧
        t.station i = { r with attempts := r.attempts + 1, failures := failures }) ∧
      (m.window ≤ r.attempts + 1 → ∃ health : Health,
        (r.health = .healthy → m.degrade ≤ failures → health = .degraded) ∧
        (r.health = .degraded → failures ≤ m.recover → health = .healthy) ∧
        (r.health = .healthy → failures < m.degrade → health = .healthy) ∧
        (r.health = .degraded → m.recover < failures → health = .degraded) ∧
        t.station i = { r with
          health := health, attempts := 0, failures := 0
          degradedWindows := if health = .degraded then min 255 (r.degradedWindows + 1) else 0 } ∧
        t.cli = if health = r.health then s.cli
          else s.cli.placed (.stationHealth i health failures)))

/-! ### What every step keeps -/

/-- Every step keeps, each on its own: tables in their canonical form; ports whose items obey R80 to R85,
R109, R117 and R129; rotations and sets that hold each station once (R64, R93, R162); queues and counts within
their bounds (R133, R179, R182, R183); balances within their range (R66); every holding within its queue cap
(R25); and, from a state between two commands, a balance of 0 or less for every station outside the rotation
of a direction (R66, R95). -/
def Obligations.EveryStepKeepsTheSoundState : Prop :=
  ∀ s t : State, step s = .next t →
    (s.Canonical → t.Canonical) ∧ (s.PortsLegal → t.PortsLegal) ∧ (s.ListsOnce → t.ListsOnce) ∧
    (s.Bounded → t.Bounded) ∧ (s.BalancesInRange → t.BalancesInRange) ∧
    (s.WithinCaps → t.WithinCaps) ∧ (s.Coherent → s.DebtsOutside → t.DebtsOutside)

/-- Every step keeps the rotations of a port holding exactly the stations that meet their membership
conditions (R64, R93), and the association maps holding exactly the bound stations, each under its own
number (R3). -/
def Obligations.EveryStepKeepsRotationsAndMaps : Prop :=
  ∀ s t : State, step s = .next t →
    (s.RotationsAgree → t.RotationsAgree) ∧ (s.MapsAgree → t.MapsAgree)

/-- Every step keeps the part's books: besides the rotations and maps, the Traffic Indication Sets (R162);
the in-flight tables, flags and numbers (R117); the 4096 slots, each in the one place its state names, and
the counts that speak of them (R22 to R25, R145); and no port is left with an opportunity (R116). -/
def Obligations.EveryStepKeepsTheBooks : Prop :=
  ∀ s t : State, step s = .next t → s.Coherent → t.Coherent

/-- The state after reset meets every condition that the steps keep. -/
def Obligations.ResetStateIsSound : Prop :=
  State.reset.Canonical ∧ State.reset.PortsLegal ∧ State.reset.ListsOnce ∧ State.reset.Bounded ∧
    State.reset.BalancesInRange ∧ State.reset.WithinCaps ∧ State.reset.DebtsOutside ∧
    State.reset.Coherent
end

