-- ==== Sys2Proof/Laws/Table.lean ====
section
/-! SUPPORT. Sparse tables: reading after writing, and the canonical form that every write keeps. -/

namespace Sys2Proof.Machine

variable {α : Type}

theorem Table.get_erase (d : α) (t : Table α) (k j : Nat) :
    Table.get d (Table.erase t k) j = if j = k then d else Table.get d t j := by
  induction t with
  | nil => simp [Table.erase, Table.get]
  | cons e t ih =>
    obtain ⟨i, v⟩ := e
    simp only [Table.erase] at ih ⊢
    by_cases h : i = k
    · subst h
      simp only [List.filter_cons, bne_self_eq_false, Bool.false_eq_true, if_false, ih,
        Table.get]
      split <;> rename_i hj
      · rfl
      · rw [if_neg (fun h => hj h.symm)]
    · simp only [List.filter_cons, bne_iff_ne, ne_eq, h, not_false_eq_true, if_true, Table.get, ih]
      by_cases hj : i = j
      · subst hj; simp [h]
      · simp [hj]

theorem Table.get_put (d : α) (k : Nat) (v : α) (t : Table α)
    (hk : ∀ e ∈ t, e.1 ≠ k) (j : Nat) :
    Table.get d (Table.put k v t) j = if j = k then v else Table.get d t j := by
  induction t with
  | nil => simp [Table.put, Table.get, eq_comm]
  | cons e t ih =>
    obtain ⟨i, w⟩ := e
    have hi : i ≠ k := hk (i, w) (by simp)
    have ih' := ih (fun e he => hk e (by simp [he]))
    simp only [Table.put]
    split
    · simp only [Table.get, eq_comm]
    · simp only [Table.get, ih']
      by_cases hj : i = j
      · subst hj; simp [hi]
      · simp [hj]

theorem Table.erase_ne (t : Table α) (k : Nat) : ∀ e ∈ Table.erase t k, e.1 ≠ k := by
  intro e he; simpa [Table.erase] using (List.mem_filter.1 he).2

/-- Reading after a write. -/
@[simp] theorem Table.get_set [DecidableEq α] (d : α) (t : Table α) (k : Nat) (v : α) (j : Nat) :
    Table.get d (Table.set d t k v) j = if j = k then v else Table.get d t j := by
  unfold Table.set
  split
  · rename_i h; rw [Table.get_erase, h]
  · rw [Table.get_put _ _ _ _ (Table.erase_ne t k), Table.get_erase]
    split <;> rfl

/-- An index that a table does not list reads as the default. -/
theorem Table.get_unlisted {d : α} {t : Table α} {k : Nat} (h : k ∉ t.map Prod.fst) :
    Table.get d t k = d := by
  induction t with
  | nil => rfl
  | cons e t ih =>
    rw [List.map_cons, List.mem_cons, not_or] at h
    exact (if_neg (Ne.symm h.1)).trans (ih h.2)

@[simp] theorem Table.get_nil (d : α) (j : Nat) : Table.get d ([] : Table α) j = d := rfl

theorem Table.mem_put {k : Nat} {v : α} {t : Table α} {e : Nat × α} :
    e ∈ Table.put k v t ↔ e = (k, v) ∨ e ∈ t := by
  induction t with
  | nil => simp [Table.put]
  | cons a t ih =>
    obtain ⟨i, w⟩ := a
    simp only [Table.put]
    split
    · simp
    · simp [ih]; tauto

theorem Table.wf_erase [DecidableEq α] {d : α} {t : Table α} (h : Table.wf d t) (k : Nat) :
    Table.wf d (Table.erase t k) :=
  ⟨h.1.filter _, fun e he => h.2 e (List.mem_filter.1 he).1⟩

theorem Table.put_pairwise {k : Nat} {v : α} {t : Table α}
    (h : t.Pairwise (fun a b => a.1 < b.1)) (hk : ∀ e ∈ t, e.1 ≠ k) :
    (Table.put k v t).Pairwise (fun a b => a.1 < b.1) := by
  induction t with
  | nil => simp [Table.put]
  | cons a t ih =>
    obtain ⟨i, w⟩ := a
    have hi : i ≠ k := hk (i, w) (by simp)
    simp only [Table.put]
    rw [List.pairwise_cons] at h
    split
    · rename_i hlt
      refine List.pairwise_cons.2 ⟨?_, List.pairwise_cons.2 h⟩
      intro b hb
      rcases List.mem_cons.1 hb with rfl | hb
      · exact hlt
      · exact Nat.lt_trans hlt (h.1 b hb)
    · rename_i hlt
      refine List.pairwise_cons.2 ⟨?_, ih h.2 (fun e he => hk e (by simp [he]))⟩
      intro b hb
      rcases Table.mem_put.1 hb with rfl | hb
      · simp only; omega
      · exact h.1 b hb

/-- A write keeps the canonical form. -/
theorem Table.wf_set [DecidableEq α] {d : α} {t : Table α} (h : Table.wf d t) (k : Nat) (v : α) :
    Table.wf d (Table.set d t k v) := by
  unfold Table.set
  split
  · exact Table.wf_erase h k
  · rename_i hv
    have he := Table.wf_erase h k
    refine ⟨Table.put_pairwise he.1 (Table.erase_ne t k), fun e hm => ?_⟩
    rcases Table.mem_put.1 hm with rfl | hm
    · exact hv
    · exact he.2 e hm

theorem Table.mem_get {d : α} {t : Table α} (h : t.Pairwise (fun a b => a.1 < b.1))
    {e : Nat × α} (he : e ∈ t) : Table.get d t e.1 = e.2 := by
  induction t with
  | nil => simp at he
  | cons a t ih =>
    obtain ⟨i, w⟩ := a
    rw [List.pairwise_cons] at h
    simp only [Table.get]
    rcases List.mem_cons.1 he with rfl | he
    · simp
    · have := h.1 e he
      simp only at this
      rw [if_neg (by omega)]
      exact ih h.2 he

/-- Canonical tables that read alike are the same table. -/
theorem Table.wf_ext [DecidableEq α] {d : α} {t u : Table α} (ht : Table.wf d t) (hu : Table.wf d u)
    (h : ∀ k, Table.get d t k = Table.get d u k) : t = u := by
  induction t generalizing u with
  | nil =>
    cases u with
    | nil => rfl
    | cons b u =>
      obtain ⟨j, w⟩ := b
      have := h j
      simp only [Table.get, if_true] at this
      exact absurd this.symm (hu.2 (j, w) (by simp))
  | cons a t ih =>
    obtain ⟨i, v⟩ := a
    cases u with
    | nil =>
      have := h i
      simp only [Table.get, if_true] at this
      exact absurd this (ht.2 (i, v) (by simp))
    | cons b u =>
      obtain ⟨j, w⟩ := b
      have pt := List.pairwise_cons.1 ht.1
      have pu := List.pairwise_cons.1 hu.1
      have away : ∀ (x : Nat) (l : Table α), (∀ e ∈ l, x < e.1) → Table.get d l x = d := by
        intro x l hl
        induction l with
        | nil => rfl
        | cons c l ihl =>
          obtain ⟨y, z⟩ := c
          have : x < y := hl (y, z) (by simp)
          simp only [Table.get]
          rw [if_neg (by omega)]
          exact ihl (fun e he => hl e (by simp [he]))
      have hij : i = j := by
        rcases Nat.lt_trichotomy i j with hlt | heq | hlt
        · have := h i
          simp only [Table.get, if_true] at this
          rw [if_neg (by omega), away i u (fun e he => Nat.lt_trans hlt (pu.1 e he))] at this
          exact absurd this (ht.2 (i, v) (by simp))
        · exact heq
        · have := h j
          simp only [Table.get, if_true] at this
          rw [if_neg (by omega), away j t (fun e he => Nat.lt_trans hlt (pt.1 e he))] at this
          exact absurd this.symm (hu.2 (j, w) (by simp))
      subst hij
      have hv : v = w := by simpa [Table.get] using h i
      subst hv
      congr 1
      refine ih ⟨pt.2, fun e he => ht.2 e (by simp [he])⟩
        ⟨pu.2, fun e he => hu.2 e (by simp [he])⟩ (fun k => ?_)
      by_cases hk : i = k
      · subst hk
        rw [away i t pt.1, away i u pu.1]
      · simpa [Table.get, hk] using h k

end Sys2Proof.Machine
end

