-- ==== Sys2Proof/Laws/State.lean ====
section
/-! SUPPORT. What each primitive update of State changes and what it leaves alone: one lemma for each
field and each update, so that no later proof unfolds a record update. -/

namespace Sys2Proof.Machine

variable (s : State)

/-! ### `setPort` -/

@[simp] theorem State.setPort_clock (p : PortNo) (q : Port) :
    (s.setPort p q).clock = s.clock := by cases p <;> rfl
@[simp] theorem State.setPort_resetLow (p : PortNo) (q : Port) :
    (s.setPort p q).resetLow = s.resetLow := by cases p <;> rfl
@[simp] theorem State.setPort_init (p : PortNo) (q : Port) :
    (s.setPort p q).init = s.init := by cases p <;> rfl
@[simp] theorem State.setPort_cli (p : PortNo) (q : Port) :
    (s.setPort p q).cli = s.cli := by cases p <;> rfl
@[simp] theorem State.setPort_stations (p : PortNo) (q : Port) :
    (s.setPort p q).stations = s.stations := by cases p <;> rfl
@[simp] theorem State.setPort_slots (p : PortNo) (q : Port) :
    (s.setPort p q).slots = s.slots := by cases p <;> rfl
@[simp] theorem State.setPort_freeStack (p : PortNo) (q : Port) :
    (s.setPort p q).freeStack = s.freeStack := by cases p <;> rfl
@[simp] theorem State.setPort_done (p : PortNo) (q : Port) :
    (s.setPort p q).done = s.done := by cases p <;> rfl
@[simp] theorem State.setPort_coalTimer (p : PortNo) (q : Port) :
    (s.setPort p q).coalTimer = s.coalTimer := by cases p <;> rfl
@[simp] theorem State.setPort_lifetimes (p : PortNo) (q : Port) :
    (s.setPort p q).lifetimes = s.lifetimes := by cases p <;> rfl
@[simp] theorem State.setPort_weights (p : PortNo) (q : Port) :
    (s.setPort p q).weights = s.weights := by cases p <;> rfl
@[simp] theorem State.setPort_monitor (p : PortNo) (q : Port) :
    (s.setPort p q).monitor = s.monitor := by cases p <;> rfl
@[simp] theorem State.setPort_freeIx (p : PortNo) (q : Port) :
    (s.setPort p q).freeIx = s.freeIx := by cases p <;> rfl
@[simp] theorem State.setPort_pending (p : PortNo) (q : Port) :
    (s.setPort p q).pending = s.pending := by cases p <;> rfl
@[simp] theorem State.setPort_port (p : PortNo) (q : Port) (p' : PortNo) :
    (s.setPort p q).port p' = if p' = p then q else s.port p' := by cases p <;> cases p' <;> rfl
@[simp] theorem State.setPort_station (p : PortNo) (q : Port) (j : Nat) :
    (s.setPort p q).station j = s.station j := by cases p <;> rfl
@[simp] theorem State.setPort_slot (p : PortNo) (q : Port) (j : Nat) :
    (s.setPort p q).slot j = s.slot j := by cases p <;> rfl
@[simp] theorem State.setPort_weight (p : PortNo) (q : Port) (c : Nat) :
    (s.setPort p q).weight c = s.weight c := by cases p <;> rfl

/-! ### `modPort` -/

@[simp] theorem State.modPort_clock (p : PortNo) (f : Port → Port) :
    (s.modPort p f).clock = s.clock := by cases p <;> rfl
@[simp] theorem State.modPort_resetLow (p : PortNo) (f : Port → Port) :
    (s.modPort p f).resetLow = s.resetLow := by cases p <;> rfl
@[simp] theorem State.modPort_init (p : PortNo) (f : Port → Port) :
    (s.modPort p f).init = s.init := by cases p <;> rfl
@[simp] theorem State.modPort_cli (p : PortNo) (f : Port → Port) :
    (s.modPort p f).cli = s.cli := by cases p <;> rfl
@[simp] theorem State.modPort_stations (p : PortNo) (f : Port → Port) :
    (s.modPort p f).stations = s.stations := by cases p <;> rfl
@[simp] theorem State.modPort_slots (p : PortNo) (f : Port → Port) :
    (s.modPort p f).slots = s.slots := by cases p <;> rfl
@[simp] theorem State.modPort_freeStack (p : PortNo) (f : Port → Port) :
    (s.modPort p f).freeStack = s.freeStack := by cases p <;> rfl
@[simp] theorem State.modPort_done (p : PortNo) (f : Port → Port) :
    (s.modPort p f).done = s.done := by cases p <;> rfl
@[simp] theorem State.modPort_coalTimer (p : PortNo) (f : Port → Port) :
    (s.modPort p f).coalTimer = s.coalTimer := by cases p <;> rfl
@[simp] theorem State.modPort_lifetimes (p : PortNo) (f : Port → Port) :
    (s.modPort p f).lifetimes = s.lifetimes := by cases p <;> rfl
@[simp] theorem State.modPort_weights (p : PortNo) (f : Port → Port) :
    (s.modPort p f).weights = s.weights := by cases p <;> rfl
@[simp] theorem State.modPort_monitor (p : PortNo) (f : Port → Port) :
    (s.modPort p f).monitor = s.monitor := by cases p <;> rfl
@[simp] theorem State.modPort_freeIx (p : PortNo) (f : Port → Port) :
    (s.modPort p f).freeIx = s.freeIx := by cases p <;> rfl
@[simp] theorem State.modPort_pending (p : PortNo) (f : Port → Port) :
    (s.modPort p f).pending = s.pending := by cases p <;> rfl
@[simp] theorem State.modPort_port (p : PortNo) (f : Port → Port) (p' : PortNo) :
    (s.modPort p f).port p' = if p' = p then f (s.port p) else s.port p' := by cases p <;> cases p' <;> rfl
@[simp] theorem State.modPort_station (p : PortNo) (f : Port → Port) (j : Nat) :
    (s.modPort p f).station j = s.station j := by cases p <;> rfl
@[simp] theorem State.modPort_slot (p : PortNo) (f : Port → Port) (j : Nat) :
    (s.modPort p f).slot j = s.slot j := by cases p <;> rfl
@[simp] theorem State.modPort_weight (p : PortNo) (f : Port → Port) (c : Nat) :
    (s.modPort p f).weight c = s.weight c := by cases p <;> rfl

/-! ### `setStation` -/

@[simp] theorem State.setStation_clock (i : Nat) (r : Station) :
    (s.setStation i r).clock = s.clock := rfl
@[simp] theorem State.setStation_resetLow (i : Nat) (r : Station) :
    (s.setStation i r).resetLow = s.resetLow := rfl
@[simp] theorem State.setStation_init (i : Nat) (r : Station) :
    (s.setStation i r).init = s.init := rfl
@[simp] theorem State.setStation_cli (i : Nat) (r : Station) : (s.setStation i r).cli = s.cli := rfl
@[simp] theorem State.setStation_slots (i : Nat) (r : Station) :
    (s.setStation i r).slots = s.slots := rfl
@[simp] theorem State.setStation_freeStack (i : Nat) (r : Station) :
    (s.setStation i r).freeStack = s.freeStack := rfl
@[simp] theorem State.setStation_done (i : Nat) (r : Station) :
    (s.setStation i r).done = s.done := rfl
@[simp] theorem State.setStation_coalTimer (i : Nat) (r : Station) :
    (s.setStation i r).coalTimer = s.coalTimer := rfl
@[simp] theorem State.setStation_lifetimes (i : Nat) (r : Station) :
    (s.setStation i r).lifetimes = s.lifetimes := rfl
@[simp] theorem State.setStation_weights (i : Nat) (r : Station) :
    (s.setStation i r).weights = s.weights := rfl
@[simp] theorem State.setStation_monitor (i : Nat) (r : Station) :
    (s.setStation i r).monitor = s.monitor := rfl
@[simp] theorem State.setStation_freeIx (i : Nat) (r : Station) :
    (s.setStation i r).freeIx = s.freeIx := rfl
@[simp] theorem State.setStation_pending (i : Nat) (r : Station) :
    (s.setStation i r).pending = s.pending := rfl
@[simp] theorem State.setStation_port (i : Nat) (r : Station) (p' : PortNo) :
    (s.setStation i r).port p' = s.port p' := by cases p' <;> rfl
@[simp] theorem State.setStation_port0 (i : Nat) (r : Station) :
    (s.setStation i r).port0 = s.port0 := rfl
@[simp] theorem State.setStation_port1 (i : Nat) (r : Station) :
    (s.setStation i r).port1 = s.port1 := rfl
@[simp] theorem State.setStation_station (i : Nat) (r : Station) (j : Nat) :
    (s.setStation i r).station j = if j = i then r else s.station j := by
  simp [State.station, State.setStation]
@[simp] theorem State.setStation_slot (i : Nat) (r : Station) (j : Nat) :
    (s.setStation i r).slot j = s.slot j := rfl
@[simp] theorem State.setStation_weight (i : Nat) (r : Station) (c : Nat) :
    (s.setStation i r).weight c = s.weight c := rfl

/-! ### `modStation` -/

@[simp] theorem State.modStation_clock (i : Nat) (f : Station → Station) :
    (s.modStation i f).clock = s.clock := rfl
@[simp] theorem State.modStation_resetLow (i : Nat) (f : Station → Station) :
    (s.modStation i f).resetLow = s.resetLow := rfl
@[simp] theorem State.modStation_init (i : Nat) (f : Station → Station) :
    (s.modStation i f).init = s.init := rfl
@[simp] theorem State.modStation_cli (i : Nat) (f : Station → Station) :
    (s.modStation i f).cli = s.cli := rfl
@[simp] theorem State.modStation_slots (i : Nat) (f : Station → Station) :
    (s.modStation i f).slots = s.slots := rfl
@[simp] theorem State.modStation_freeStack (i : Nat) (f : Station → Station) :
    (s.modStation i f).freeStack = s.freeStack := rfl
@[simp] theorem State.modStation_done (i : Nat) (f : Station → Station) :
    (s.modStation i f).done = s.done := rfl
@[simp] theorem State.modStation_coalTimer (i : Nat) (f : Station → Station) :
    (s.modStation i f).coalTimer = s.coalTimer := rfl
@[simp] theorem State.modStation_lifetimes (i : Nat) (f : Station → Station) :
    (s.modStation i f).lifetimes = s.lifetimes := rfl
@[simp] theorem State.modStation_weights (i : Nat) (f : Station → Station) :
    (s.modStation i f).weights = s.weights := rfl
@[simp] theorem State.modStation_monitor (i : Nat) (f : Station → Station) :
    (s.modStation i f).monitor = s.monitor := rfl
@[simp] theorem State.modStation_freeIx (i : Nat) (f : Station → Station) :
    (s.modStation i f).freeIx = s.freeIx := rfl
@[simp] theorem State.modStation_pending (i : Nat) (f : Station → Station) :
    (s.modStation i f).pending = s.pending := rfl
@[simp] theorem State.modStation_port (i : Nat) (f : Station → Station) (p' : PortNo) :
    (s.modStation i f).port p' = s.port p' := by cases p' <;> rfl
@[simp] theorem State.modStation_port0 (i : Nat) (f : Station → Station) :
    (s.modStation i f).port0 = s.port0 := rfl
@[simp] theorem State.modStation_port1 (i : Nat) (f : Station → Station) :
    (s.modStation i f).port1 = s.port1 := rfl
@[simp] theorem State.modStation_station (i : Nat) (f : Station → Station) (j : Nat) :
    (s.modStation i f).station j = if j = i then f (s.station i) else s.station j := by
  simp [State.station, State.modStation, State.setStation]
@[simp] theorem State.modStation_slot (i : Nat) (f : Station → Station) (j : Nat) :
    (s.modStation i f).slot j = s.slot j := rfl
@[simp] theorem State.modStation_weight (i : Nat) (f : Station → Station) (c : Nat) :
    (s.modStation i f).weight c = s.weight c := rfl

/-! ### `setSlot` -/

@[simp] theorem State.setSlot_clock (k : Nat) (v : Slot) : (s.setSlot k v).clock = s.clock := rfl
@[simp] theorem State.setSlot_resetLow (k : Nat) (v : Slot) : (s.setSlot k v).resetLow = s.resetLow := rfl
@[simp] theorem State.setSlot_init (k : Nat) (v : Slot) : (s.setSlot k v).init = s.init := rfl
@[simp] theorem State.setSlot_cli (k : Nat) (v : Slot) : (s.setSlot k v).cli = s.cli := rfl
@[simp] theorem State.setSlot_stations (k : Nat) (v : Slot) :
    (s.setSlot k v).stations = s.stations := rfl
@[simp] theorem State.setSlot_freeStack (k : Nat) (v : Slot) :
    (s.setSlot k v).freeStack = s.freeStack := rfl
@[simp] theorem State.setSlot_done (k : Nat) (v : Slot) : (s.setSlot k v).done = s.done := rfl
@[simp] theorem State.setSlot_coalTimer (k : Nat) (v : Slot) :
    (s.setSlot k v).coalTimer = s.coalTimer := rfl
@[simp] theorem State.setSlot_lifetimes (k : Nat) (v : Slot) :
    (s.setSlot k v).lifetimes = s.lifetimes := rfl
@[simp] theorem State.setSlot_weights (k : Nat) (v : Slot) :
    (s.setSlot k v).weights = s.weights := rfl
@[simp] theorem State.setSlot_monitor (k : Nat) (v : Slot) :
    (s.setSlot k v).monitor = s.monitor := rfl
@[simp] theorem State.setSlot_freeIx (k : Nat) (v : Slot) : (s.setSlot k v).freeIx = s.freeIx := rfl
@[simp] theorem State.setSlot_pending (k : Nat) (v : Slot) :
    (s.setSlot k v).pending = s.pending := rfl
@[simp] theorem State.setSlot_port (k : Nat) (v : Slot) (p' : PortNo) :
    (s.setSlot k v).port p' = s.port p' := by cases p' <;> rfl
@[simp] theorem State.setSlot_port0 (k : Nat) (v : Slot) : (s.setSlot k v).port0 = s.port0 := rfl
@[simp] theorem State.setSlot_port1 (k : Nat) (v : Slot) : (s.setSlot k v).port1 = s.port1 := rfl
@[simp] theorem State.setSlot_station (k : Nat) (v : Slot) (j : Nat) :
    (s.setSlot k v).station j = s.station j := rfl
@[simp] theorem State.setSlot_slot (k : Nat) (v : Slot) (j : Nat) :
    (s.setSlot k v).slot j = if j = k then v else s.slot j := by
  simp [State.slot, State.setSlot]
@[simp] theorem State.setSlot_weight (k : Nat) (v : Slot) (c : Nat) :
    (s.setSlot k v).weight c = s.weight c := rfl

/-! ### `modSlot` -/

@[simp] theorem State.modSlot_clock (k : Nat) (f : Slot → Slot) :
    (s.modSlot k f).clock = s.clock := rfl
@[simp] theorem State.modSlot_resetLow (k : Nat) (f : Slot → Slot) :
    (s.modSlot k f).resetLow = s.resetLow := rfl
@[simp] theorem State.modSlot_init (k : Nat) (f : Slot → Slot) :
    (s.modSlot k f).init = s.init := rfl
@[simp] theorem State.modSlot_cli (k : Nat) (f : Slot → Slot) : (s.modSlot k f).cli = s.cli := rfl
@[simp] theorem State.modSlot_stations (k : Nat) (f : Slot → Slot) :
    (s.modSlot k f).stations = s.stations := rfl
@[simp] theorem State.modSlot_freeStack (k : Nat) (f : Slot → Slot) :
    (s.modSlot k f).freeStack = s.freeStack := rfl
@[simp] theorem State.modSlot_done (k : Nat) (f : Slot → Slot) :
    (s.modSlot k f).done = s.done := rfl
@[simp] theorem State.modSlot_coalTimer (k : Nat) (f : Slot → Slot) :
    (s.modSlot k f).coalTimer = s.coalTimer := rfl
@[simp] theorem State.modSlot_lifetimes (k : Nat) (f : Slot → Slot) :
    (s.modSlot k f).lifetimes = s.lifetimes := rfl
@[simp] theorem State.modSlot_weights (k : Nat) (f : Slot → Slot) :
    (s.modSlot k f).weights = s.weights := rfl
@[simp] theorem State.modSlot_monitor (k : Nat) (f : Slot → Slot) :
    (s.modSlot k f).monitor = s.monitor := rfl
@[simp] theorem State.modSlot_freeIx (k : Nat) (f : Slot → Slot) :
    (s.modSlot k f).freeIx = s.freeIx := rfl
@[simp] theorem State.modSlot_pending (k : Nat) (f : Slot → Slot) :
    (s.modSlot k f).pending = s.pending := rfl
@[simp] theorem State.modSlot_port (k : Nat) (f : Slot → Slot) (p' : PortNo) :
    (s.modSlot k f).port p' = s.port p' := by cases p' <;> rfl
@[simp] theorem State.modSlot_port0 (k : Nat) (f : Slot → Slot) :
    (s.modSlot k f).port0 = s.port0 := rfl
@[simp] theorem State.modSlot_port1 (k : Nat) (f : Slot → Slot) :
    (s.modSlot k f).port1 = s.port1 := rfl
@[simp] theorem State.modSlot_station (k : Nat) (f : Slot → Slot) (j : Nat) :
    (s.modSlot k f).station j = s.station j := rfl
@[simp] theorem State.modSlot_slot (k : Nat) (f : Slot → Slot) (j : Nat) :
    (s.modSlot k f).slot j = if j = k then f (s.slot k) else s.slot j := by
  simp [State.slot, State.setSlot, State.modSlot]
@[simp] theorem State.modSlot_weight (k : Nat) (f : Slot → Slot) (c : Nat) :
    (s.modSlot k f).weight c = s.weight c := rfl

/-! ### `modCli` -/

@[simp] theorem State.modCli_clock (f : ControlLink → ControlLink) :
    (s.modCli f).clock = s.clock := rfl
@[simp] theorem State.modCli_resetLow (f : ControlLink → ControlLink) :
    (s.modCli f).resetLow = s.resetLow := rfl
@[simp] theorem State.modCli_init (f : ControlLink → ControlLink) :
    (s.modCli f).init = s.init := rfl
@[simp] theorem State.modCli_stations (f : ControlLink → ControlLink) :
    (s.modCli f).stations = s.stations := rfl
@[simp] theorem State.modCli_slots (f : ControlLink → ControlLink) :
    (s.modCli f).slots = s.slots := rfl
@[simp] theorem State.modCli_freeStack (f : ControlLink → ControlLink) :
    (s.modCli f).freeStack = s.freeStack := rfl
@[simp] theorem State.modCli_done (f : ControlLink → ControlLink) :
    (s.modCli f).done = s.done := rfl
@[simp] theorem State.modCli_coalTimer (f : ControlLink → ControlLink) :
    (s.modCli f).coalTimer = s.coalTimer := rfl
@[simp] theorem State.modCli_lifetimes (f : ControlLink → ControlLink) :
    (s.modCli f).lifetimes = s.lifetimes := rfl
@[simp] theorem State.modCli_weights (f : ControlLink → ControlLink) :
    (s.modCli f).weights = s.weights := rfl
@[simp] theorem State.modCli_monitor (f : ControlLink → ControlLink) :
    (s.modCli f).monitor = s.monitor := rfl
@[simp] theorem State.modCli_freeIx (f : ControlLink → ControlLink) :
    (s.modCli f).freeIx = s.freeIx := rfl
@[simp] theorem State.modCli_pending (f : ControlLink → ControlLink) :
    (s.modCli f).pending = s.pending := rfl
@[simp] theorem State.modCli_port (f : ControlLink → ControlLink) (p' : PortNo) :
    (s.modCli f).port p' = s.port p' := by cases p' <;> rfl
@[simp] theorem State.modCli_port0 (f : ControlLink → ControlLink) :
    (s.modCli f).port0 = s.port0 := rfl
@[simp] theorem State.modCli_port1 (f : ControlLink → ControlLink) :
    (s.modCli f).port1 = s.port1 := rfl
@[simp] theorem State.modCli_station (f : ControlLink → ControlLink) (j : Nat) :
    (s.modCli f).station j = s.station j := rfl
@[simp] theorem State.modCli_slot (f : ControlLink → ControlLink) (j : Nat) :
    (s.modCli f).slot j = s.slot j := rfl
@[simp] theorem State.modCli_weight (f : ControlLink → ControlLink) (c : Nat) :
    (s.modCli f).weight c = s.weight c := rfl
@[simp] theorem State.modCli_cli (f : ControlLink → ControlLink) : (s.modCli f).cli = f s.cli := rfl

/-! ### The other fields, written whole: ports, stations, slots and weights read through them -/

@[simp] theorem State.with_clock_port (x : Clock) (p : PortNo) :
    ({ s with clock := x } : State).port p = s.port p := by cases p <;> rfl
@[simp] theorem State.with_clock_station (x : Clock) (i : Nat) :
    ({ s with clock := x } : State).station i = s.station i := rfl
@[simp] theorem State.with_clock_slot (x : Clock) (k : Nat) :
    ({ s with clock := x } : State).slot k = s.slot k := rfl
@[simp] theorem State.with_clock_weight (x : Clock) (c : Nat) :
    ({ s with clock := x } : State).weight c = s.weight c := rfl
@[simp] theorem State.with_resetLow_port (x : Bool) (p : PortNo) :
    ({ s with resetLow := x } : State).port p = s.port p := by cases p <;> rfl
@[simp] theorem State.with_init_port (x : Init) (p : PortNo) :
    ({ s with init := x } : State).port p = s.port p := by cases p <;> rfl
@[simp] theorem State.with_resetLow_station (x : Bool) (i : Nat) :
    ({ s with resetLow := x } : State).station i = s.station i := rfl
@[simp] theorem State.with_init_station (x : Init) (i : Nat) :
    ({ s with init := x } : State).station i = s.station i := rfl
@[simp] theorem State.with_resetLow_slot (x : Bool) (k : Nat) :
    ({ s with resetLow := x } : State).slot k = s.slot k := rfl
@[simp] theorem State.with_init_slot (x : Init) (k : Nat) :
    ({ s with init := x } : State).slot k = s.slot k := rfl
@[simp] theorem State.with_resetLow_weight (x : Bool) (c : Nat) :
    ({ s with resetLow := x } : State).weight c = s.weight c := rfl
@[simp] theorem State.with_init_weight (x : Init) (c : Nat) :
    ({ s with init := x } : State).weight c = s.weight c := rfl
@[simp] theorem State.with_freeStack_port (x : List Nat) (p : PortNo) :
    ({ s with freeStack := x } : State).port p = s.port p := by cases p <;> rfl
@[simp] theorem State.with_freeStack_station (x : List Nat) (i : Nat) :
    ({ s with freeStack := x } : State).station i = s.station i := rfl
@[simp] theorem State.with_freeStack_slot (x : List Nat) (k : Nat) :
    ({ s with freeStack := x } : State).slot k = s.slot k := rfl
@[simp] theorem State.with_freeStack_weight (x : List Nat) (c : Nat) :
    ({ s with freeStack := x } : State).weight c = s.weight c := rfl
@[simp] theorem State.with_done_port (x : List DoneEntry) (p : PortNo) :
    ({ s with done := x } : State).port p = s.port p := by cases p <;> rfl
@[simp] theorem State.with_done_station (x : List DoneEntry) (i : Nat) :
    ({ s with done := x } : State).station i = s.station i := rfl
@[simp] theorem State.with_done_slot (x : List DoneEntry) (k : Nat) :
    ({ s with done := x } : State).slot k = s.slot k := rfl
@[simp] theorem State.with_done_weight (x : List DoneEntry) (c : Nat) :
    ({ s with done := x } : State).weight c = s.weight c := rfl
@[simp] theorem State.with_coalTimer_port (x : CoalTimer) (p : PortNo) :
    ({ s with coalTimer := x } : State).port p = s.port p := by cases p <;> rfl
@[simp] theorem State.with_coalTimer_station (x : CoalTimer) (i : Nat) :
    ({ s with coalTimer := x } : State).station i = s.station i := rfl
@[simp] theorem State.with_coalTimer_slot (x : CoalTimer) (k : Nat) :
    ({ s with coalTimer := x } : State).slot k = s.slot k := rfl
@[simp] theorem State.with_coalTimer_weight (x : CoalTimer) (c : Nat) :
    ({ s with coalTimer := x } : State).weight c = s.weight c := rfl
@[simp] theorem State.with_lifetimes_port (x : Lifetimes) (p : PortNo) :
    ({ s with lifetimes := x } : State).port p = s.port p := by cases p <;> rfl
@[simp] theorem State.with_lifetimes_station (x : Lifetimes) (i : Nat) :
    ({ s with lifetimes := x } : State).station i = s.station i := rfl
@[simp] theorem State.with_lifetimes_slot (x : Lifetimes) (k : Nat) :
    ({ s with lifetimes := x } : State).slot k = s.slot k := rfl
@[simp] theorem State.with_lifetimes_weight (x : Lifetimes) (c : Nat) :
    ({ s with lifetimes := x } : State).weight c = s.weight c := rfl
@[simp] theorem State.with_monitor_port (x : MonitorSettings) (p : PortNo) :
    ({ s with monitor := x } : State).port p = s.port p := by cases p <;> rfl
@[simp] theorem State.with_monitor_station (x : MonitorSettings) (i : Nat) :
    ({ s with monitor := x } : State).station i = s.station i := rfl
@[simp] theorem State.with_monitor_slot (x : MonitorSettings) (k : Nat) :
    ({ s with monitor := x } : State).slot k = s.slot k := rfl
@[simp] theorem State.with_monitor_weight (x : MonitorSettings) (c : Nat) :
    ({ s with monitor := x } : State).weight c = s.weight c := rfl
@[simp] theorem State.with_pending_port (x : List Instr) (p : PortNo) :
    ({ s with pending := x } : State).port p = s.port p := by cases p <;> rfl
@[simp] theorem State.with_pending_station (x : List Instr) (i : Nat) :
    ({ s with pending := x } : State).station i = s.station i := rfl
@[simp] theorem State.with_pending_slot (x : List Instr) (k : Nat) :
    ({ s with pending := x } : State).slot k = s.slot k := rfl
@[simp] theorem State.with_pending_weight (x : List Instr) (c : Nat) :
    ({ s with pending := x } : State).weight c = s.weight c := rfl
@[simp] theorem State.with_cli_port (x : ControlLink) (p : PortNo) :
    ({ s with cli := x } : State).port p = s.port p := by cases p <;> rfl
@[simp] theorem State.with_cli_station (x : ControlLink) (i : Nat) :
    ({ s with cli := x } : State).station i = s.station i := rfl
@[simp] theorem State.with_cli_slot (x : ControlLink) (k : Nat) :
    ({ s with cli := x } : State).slot k = s.slot k := rfl
@[simp] theorem State.with_cli_weight (x : ControlLink) (c : Nat) :
    ({ s with cli := x } : State).weight c = s.weight c := rfl
@[simp] theorem State.with_freeIx_port (x : Nat) (p : PortNo) :
    ({ s with freeIx := x } : State).port p = s.port p := by cases p <;> rfl
@[simp] theorem State.with_freeIx_station (x : Nat) (i : Nat) :
    ({ s with freeIx := x } : State).station i = s.station i := rfl
@[simp] theorem State.with_freeIx_slot (x : Nat) (k : Nat) :
    ({ s with freeIx := x } : State).slot k = s.slot k := rfl
@[simp] theorem State.with_freeIx_weight (x : Nat) (c : Nat) :
    ({ s with freeIx := x } : State).weight c = s.weight c := rfl

/-! ### The association map -/

@[simp] theorem Port.setMapped_mapped (q : Port) (a : Nat) (v : Option Nat) (b : Nat) :
    (q.setMapped a v).mapped b = if b = a then v else q.mapped b := by
  simp [Port.mapped, Port.setMapped]

/-! ### FIFOs -/

@[simp] theorem Station.setFifo_fifo (r : Station) (t : Tier) (l : List Nat) :
    (r.setFifo t l).fifo t = l := by cases t <;> rfl

theorem Station.setFifo_fifo_other (r : Station) (t u : Tier) (l : List Nat) (h : u ≠ t) :
    (r.setFifo t l).fifo u = r.fifo u := by
  cases t <;> cases u <;> first | rfl | exact absurd rfl h

/-! ### Ports read one by one -/

theorem State.ports_ext {s t : State} (h : ∀ p, s.port p = t.port p) :
    s.port0 = t.port0 ∧ s.port1 = t.port1 := ⟨h .zero, h .one⟩

end Sys2Proof.Machine
end

