-- ==== Sys2Proof/Laws/Calm.lean ====
section
/-! SUPPORT. What the shared operations below a decision can do, said once. `Calm s t` says that `t`
differs from `s` only as those operations make it differ: no port changes state but by a wake, no entry
joins or leaves an in-flight table, no parameter changes, and the sound-state conditions of
Sys2Proof/Safety.lean are kept. Every such operation has one lemma here, and a proof about a command
composes them. -/

namespace Sys2Proof.Machine

/-- The DL and UL balance of a record are in range (R66). -/
def Station.InRange (r : Station) : Prop :=
  -32768 ≤ r.dlBalance ∧ r.dlBalance ≤ 32767 ∧ -32768 ≤ r.ulBalance ∧ r.ulBalance ≤ 32767

theorem satBalance_range (x : Int) : -32768 ≤ satBalance x ∧ satBalance x ≤ 32767 := by
  unfold satBalance clampInt; omega

theorem satCount_le (n : Nat) : satCount n ≤ 65535 := by unfold satCount; omega

/-- How a port may differ after a calm operation. -/
structure CalmPort (q r : Port) : Prop where
  state : (r.state = q.state ∧ r.suspendReason = q.suspendReason ∧ r.resumeTimer = q.resumeTimer) ∨
    (q.state = .suspended ∧ r.state = .running ∧ r.suspendReason = .none ∧ r.resumeTimer = none)
  fixed : r.grantTimeouts = q.grantTimeouts ∧ r.portLosses = q.portLosses ∧
    r.radioRestarts = q.radioRestarts ∧ r.holdStalls = q.holdStalls ∧
    r.consecutiveTimeouts = q.consecutiveTimeouts
  hold : r.hold = q.hold
  holdReason : r.holdReason = q.holdReason
  holdTimer : r.holdTimer = q.holdTimer
  depth : r.depth = q.depth
  nextNumber : r.nextNumber = q.nextNumber
  params : r.params = q.params
  rates : r.rates = q.rates
  epochTimer : r.epochTimer = q.epochTimer
  budget : r.budget = q.budget
  sinceUplink : r.sinceUplink = q.sinceUplink
  numbers : r.inFlight.map InFlight.number = q.inFlight.map InFlight.number
  lists : q.ListsOnce → r.ListsOnce
  counts : q.CountsBounded → r.CountsBounded
  map : Table.wf none q.assocMap → Table.wf none r.assocMap

theorem CalmPort.refl (q : Port) : CalmPort q q :=
  ⟨.inl ⟨rfl, rfl, rfl⟩, ⟨rfl, rfl, rfl, rfl, rfl⟩,
    rfl, rfl, rfl, rfl, rfl, rfl, rfl, rfl, rfl, rfl, rfl, id, id, id⟩

theorem CalmPort.trans {q r w : Port} (h : CalmPort q r) (k : CalmPort r w) : CalmPort q w where
  state := by
    rcases h.state with ⟨a, b, c⟩ | ⟨a, b, c, d⟩ <;> rcases k.state with ⟨a', b', c'⟩ | ⟨a', b', c', d'⟩
    · exact .inl ⟨a'.trans a, b'.trans b, c'.trans c⟩
    · exact .inr ⟨a ▸ a', b', c', d'⟩
    · exact .inr ⟨a, a'.trans b, b'.trans c, c'.trans d⟩
    · exact .inr ⟨a, b', c', d'⟩
  fixed := ⟨k.fixed.1.trans h.fixed.1, k.fixed.2.1.trans h.fixed.2.1,
    k.fixed.2.2.1.trans h.fixed.2.2.1, k.fixed.2.2.2.1.trans h.fixed.2.2.2.1,
    k.fixed.2.2.2.2.trans h.fixed.2.2.2.2⟩
  hold := k.hold.trans h.hold
  holdReason := k.holdReason.trans h.holdReason
  holdTimer := k.holdTimer.trans h.holdTimer
  depth := k.depth.trans h.depth
  nextNumber := k.nextNumber.trans h.nextNumber
  params := k.params.trans h.params
  rates := k.rates.trans h.rates
  epochTimer := k.epochTimer.trans h.epochTimer
  budget := k.budget.trans h.budget
  sinceUplink := k.sinceUplink.trans h.sinceUplink
  numbers := k.numbers.trans h.numbers
  lists := k.lists ∘ h.lists
  counts := k.counts ∘ h.counts
  map := k.map ∘ h.map

theorem CalmPort.live {q r : Port} (h : CalmPort q r) : r.state.live = q.state.live := by
  rcases h.state with ⟨a, _, _⟩ | ⟨a, b, _, _⟩
  · rw [a]
  · rw [a, b]; rfl

theorem CalmPort.running {q r : Port} (h : CalmPort q r) (hq : q.state = .running) :
    r.state = .running := by
  rcases h.state with ⟨a, _, _⟩ | ⟨a, _, _, _⟩
  · rw [a, hq]
  · rw [hq] at a; exact absurd a (by decide)

theorem CalmPort.length {q r : Port} (h : CalmPort q r) : r.inFlight.length = q.inFlight.length := by
  have := congrArg List.length h.numbers
  simpa using this

theorem CalmPort.legal {q r : Port} (h : CalmPort q r) (hq : q.Legal) : r.Legal where
  epoch := by rw [h.epochTimer, h.live, hq.epoch]
  reason := by
    rcases h.state with ⟨a, b, _⟩ | ⟨_, b, c, _⟩
    · rw [a, b]; exact hq.reason
    · rw [b, c]; decide
  resume := by
    rcases h.state with ⟨_, b, c⟩ | ⟨_, _, c, d⟩
    · rw [b, c]; exact hq.resume
    · rw [c, d]; decide
  absentHold := by
    intro ha
    rw [h.hold]
    rcases h.state with ⟨a, _, _⟩ | ⟨_, b, _, _⟩
    · exact hq.absentHold (a ▸ ha)
    · rw [b] at ha; exact absurd ha (by decide)
  holdOff := by rw [h.hold, h.holdReason, h.holdTimer]; exact hq.holdOff
  depth := by rw [h.depth]; exact hq.depth
  room := by rw [h.length, h.depth]; exact hq.room
  empty := by
    intro hl
    have := hq.empty (h.live ▸ hl)
    exact List.eq_nil_of_length_eq_zero (by rw [h.length, this]; rfl)
  budget := by rw [h.budget, h.params]; exact hq.budget
  sinceUplink := by rw [h.sinceUplink]; exact hq.sinceUplink

/-- How the part may differ after a calm operation. -/
structure Calm (s t : State) : Prop where
  clock : t.clock = s.clock
  init : t.init = s.init
  resetLow : t.resetLow = s.resetLow
  lifetimes : t.lifetimes = s.lifetimes
  weights : t.weights = s.weights
  monitor : t.monitor = s.monitor
  freeIx : t.freeIx = s.freeIx
  pending : t.pending = s.pending
  inbound : t.cli.inbound = s.cli.inbound
  reply : t.cli.reply = s.cli.reply
  cli : s.cli.Bounded → t.cli.Bounded
  port : ∀ p, CalmPort (s.port p) (t.port p)
  stationsWf : Table.wf Station.vacantRecord s.stations → Table.wf Station.vacantRecord t.stations
  slotsWf : Table.wf Slot.freeRecord s.slots → Table.wf Slot.freeRecord t.slots
  balances : s.BalancesInRange → t.BalancesInRange

theorem Calm.refl (s : State) : Calm s s :=
  ⟨rfl, rfl, rfl, rfl, rfl, rfl, rfl, rfl, rfl, rfl, id, fun _ => .refl _, id, id, id⟩

theorem Calm.trans {s t u : State} (h : Calm s t) (k : Calm t u) : Calm s u :=
  ⟨k.clock.trans h.clock, k.init.trans h.init, k.resetLow.trans h.resetLow, k.lifetimes.trans h.lifetimes,
    k.weights.trans h.weights, k.monitor.trans h.monitor, k.freeIx.trans h.freeIx,
    k.pending.trans h.pending, k.inbound.trans h.inbound, k.reply.trans h.reply, k.cli ∘ h.cli,
    fun p => (h.port p).trans (k.port p), k.stationsWf ∘ h.stationsWf, k.slotsWf ∘ h.slotsWf,
    k.balances ∘ h.balances⟩

theorem Calm.canonical {s t : State} (h : Calm s t) (hs : s.Canonical) : t.Canonical where
  stations := h.stationsWf hs.stations
  slots := h.slotsWf hs.slots
  weights := by rw [h.weights]; exact hs.weights
  ports p := ⟨by rw [(h.port p).rates]; exact (hs.ports p).rates, (h.port p).map (hs.ports p).assocMap⟩

theorem Calm.legal {s t : State} (h : Calm s t) (hs : s.PortsLegal) : t.PortsLegal :=
  fun p => (h.port p).legal (hs p)

theorem Calm.listsOnce {s t : State} (h : Calm s t) (hs : s.ListsOnce) : t.ListsOnce :=
  fun p => (h.port p).lists (hs p)

theorem Calm.bounded {s t : State} (h : Calm s t) (hs : s.Bounded) : t.Bounded :=
  ⟨h.cli hs.1, fun p => (h.port p).counts (hs.2 p)⟩

/-- A fold of calm operations is calm. -/
theorem Calm.foldl {α : Type} {f : State → α → State} (hf : ∀ s a, Calm s (f s a)) (l : List α)
    (s : State) : Calm s (l.foldl f s) := by
  induction l generalizing s with
  | nil => exact .refl s
  | cons a l ih => exact (hf s a).trans (ih _)

/-! ### The primitive updates -/

theorem Calm.setStation {s : State} {i : Nat} {r : Station}
    (hr : (s.station i).InRange → r.InRange) : Calm s (s.setStation i r) where
  clock := rfl
  init := rfl
  resetLow := rfl
  lifetimes := rfl
  weights := rfl
  monitor := rfl
  freeIx := rfl
  pending := rfl
  inbound := rfl
  reply := rfl
  cli := id
  port p := by simp [CalmPort.refl]
  stationsWf h := Table.wf_set h i r
  slotsWf := id
  balances h j := by
    simp only [State.setStation_station]
    split
    · exact hr (h i)
    · exact h j

theorem Calm.modStation {s : State} {i : Nat} {f : Station → Station}
    (hf : (s.station i).InRange → (f (s.station i)).InRange) : Calm s (s.modStation i f) :=
  Calm.setStation hf

/-- A record update that writes no balance. -/
theorem Calm.modStation_same {s : State} {i : Nat} {f : Station → Station}
    (hd : (f (s.station i)).dlBalance = (s.station i).dlBalance)
    (hu : (f (s.station i)).ulBalance = (s.station i).ulBalance) : Calm s (s.modStation i f) :=
  Calm.modStation (by intro h; unfold Station.InRange; rw [hd, hu]; exact h)

theorem Calm.setSlot (s : State) (k : Nat) (v : Slot) : Calm s (s.setSlot k v) where
  clock := rfl
  init := rfl
  resetLow := rfl
  lifetimes := rfl
  weights := rfl
  monitor := rfl
  freeIx := rfl
  pending := rfl
  inbound := rfl
  reply := rfl
  cli := id
  port p := by simp [CalmPort.refl]
  stationsWf := id
  slotsWf h := Table.wf_set h k v
  balances := id

theorem Calm.modSlot (s : State) (k : Nat) (f : Slot → Slot) : Calm s (s.modSlot k f) :=
  Calm.setSlot s k _

theorem Calm.modPort {s : State} {p : PortNo} {f : Port → Port}
    (hf : CalmPort (s.port p) (f (s.port p))) : Calm s (s.modPort p f) where
  clock := by simp
  init := by simp
  resetLow := by simp
  lifetimes := by simp
  weights := by simp
  monitor := by simp
  freeIx := by simp
  pending := by simp
  inbound := by simp
  reply := by simp
  cli := by simp
  port p' := by
    rw [State.modPort_port]
    split
    · rename_i h; subst h; exact hf
    · exact .refl _
  stationsWf := by simp
  slotsWf := by simp
  balances h := by intro i; simpa using h i

/-- The Done List, its timer and the free stack. -/
theorem Calm.pool (s : State) (d : List DoneEntry) (c : CoalTimer) (l : List Nat) :
    Calm s { s with done := d, coalTimer := c, freeStack := l } :=
  ⟨rfl, rfl, rfl, rfl, rfl, rfl, rfl, rfl, rfl, rfl, id, fun p => by cases p <;> exact .refl _, id, id, id⟩

theorem Calm.withDone (s : State) (d : List DoneEntry) : Calm s { s with done := d } :=
  Calm.pool s d s.coalTimer s.freeStack

theorem Calm.withTimer (s : State) (c : CoalTimer) : Calm s { s with coalTimer := c } :=
  Calm.pool s s.done c s.freeStack

theorem Calm.withFree (s : State) (l : List Nat) : Calm s { s with freeStack := l } :=
  Calm.pool s s.done s.coalTimer l

theorem Calm.modCli {s : State} {f : ControlLink → ControlLink}
    (hi : (f s.cli).inbound = s.cli.inbound) (hr : (f s.cli).reply = s.cli.reply)
    (hb : s.cli.Bounded → (f s.cli).Bounded) : Calm s (s.modCli f) :=
  ⟨rfl, rfl, rfl, rfl, rfl, rfl, rfl, rfl, hi, hr, hb, fun p => by cases p <;> exact .refl _, id, id, id⟩

/-! ### Port updates that change only lists and counts -/

/-- A list of stations in which each stood once still holds each once. -/
def OnceKept (l m : List Nat) : Prop := l.Nodup → m.Nodup

theorem OnceKept.filter (l : List Nat) (f : Nat → Bool) : OnceKept l (l.filter f) :=
  fun h => h.filter f

theorem OnceKept.append {l : List Nat} {i : Nat} (h : i ∉ l) : OnceKept l (l ++ [i]) := by
  intro hl
  rw [List.nodup_append]
  refine ⟨hl, by simp, ?_⟩
  intro a ha b hb
  simp only [List.mem_singleton] at hb
  subst hb
  exact fun hab => h (hab ▸ ha)

theorem OnceKept.toTail (i : Nat) (l : List Nat) : OnceKept l (toTail i l) := by
  intro hl
  have : i ∉ l.filter (· != i) := by simp
  exact OnceKept.append this (hl.filter _)

theorem OnceKept.insert {l : List Nat} {i : Nat} (h : i ∉ l) :
    OnceKept l (l.orderedInsert (· ≤ ·) i) := by
  intro hl
  exact (List.perm_orderedInsert (· ≤ ·) i l).nodup_iff.2 (List.nodup_cons.2 ⟨h, hl⟩)

theorem CalmPort.lists_only (q : Port) (m e u t : List Nat) (hm : OnceKept q.mainRot m)
    (he : OnceKept q.expRot e) (hu : OnceKept q.ulRot u) (ht : OnceKept q.tis t) :
    CalmPort q { q with mainRot := m, expRot := e, ulRot := u, tis := t } :=
  ⟨.inl ⟨rfl, rfl, rfl⟩, ⟨rfl, rfl, rfl, rfl, rfl⟩,
    rfl, rfl, rfl, rfl, rfl, rfl, rfl, rfl, rfl, rfl, rfl,
    fun h => ⟨hm h.main, he h.exp, hu h.ul, ht h.tis⟩, fun h => ⟨h.1, h.2, h.3, h.4, h.5, h.6, h.7,
      h.8, h.9⟩, id⟩

theorem CalmPort.mainRot {q : Port} {l : List Nat} (h : OnceKept q.mainRot l) :
    CalmPort q { q with mainRot := l } :=
  CalmPort.lists_only q l q.expRot q.ulRot q.tis h (fun h => h) (fun h => h) (fun h => h)

theorem CalmPort.expRot {q : Port} {l : List Nat} (h : OnceKept q.expRot l) :
    CalmPort q { q with expRot := l } :=
  CalmPort.lists_only q q.mainRot l q.ulRot q.tis (fun h => h) h (fun h => h) (fun h => h)

theorem CalmPort.ulRot {q : Port} {l : List Nat} (h : OnceKept q.ulRot l) :
    CalmPort q { q with ulRot := l } :=
  CalmPort.lists_only q q.mainRot q.expRot l q.tis (fun h => h) (fun h => h) h (fun h => h)

theorem CalmPort.tis {q : Port} {l : List Nat} (h : OnceKept q.tis l) :
    CalmPort q { q with tis := l } :=
  CalmPort.lists_only q q.mainRot q.expRot q.ulRot l (fun h => h) (fun h => h) (fun h => h) h

theorem CalmPort.outbound (q : Port) (l : List RadioRecord) : CalmPort q { q with outbound := l } :=
  ⟨.inl ⟨rfl, rfl, rfl⟩, ⟨rfl, rfl, rfl, rfl, rfl⟩,
    rfl, rfl, rfl, rfl, rfl, rfl, rfl, rfl, rfl, rfl, rfl, fun h => ⟨h.1, h.2, h.3,
    h.4⟩, fun h => ⟨h.1, h.2, h.3, h.4, h.5, h.6, h.7, h.8, h.9⟩, id⟩

/-- The entries of the table change, their numbers and order do not. -/
theorem CalmPort.entries (q : Port) (f : InFlight → InFlight) (hf : ∀ e, (f e).number = e.number) :
    CalmPort q { q with inFlight := q.inFlight.map f } :=
  ⟨.inl ⟨rfl, rfl, rfl⟩, ⟨rfl, rfl, rfl, rfl, rfl⟩,
    rfl, rfl, rfl, rfl, rfl, rfl, rfl, rfl, rfl, rfl,
    by simp [Function.comp_def, hf], fun h => ⟨h.1, h.2, h.3, h.4⟩,
    fun h => ⟨h.1, h.2, h.3, h.4, h.5, h.6, h.7, h.8, h.9⟩, id⟩

theorem CalmPort.setMapped (q : Port) (a : Nat) (v : Option Nat) : CalmPort q (q.setMapped a v) :=
  ⟨.inl ⟨rfl, rfl, rfl⟩, ⟨rfl, rfl, rfl, rfl, rfl⟩,
    rfl, rfl, rfl, rfl, rfl, rfl, rfl, rfl, rfl, rfl, rfl, fun h => ⟨h.1, h.2, h.3,
    h.4⟩, fun h => ⟨h.1, h.2, h.3, h.4, h.5, h.6, h.7, h.8, h.9⟩, fun h => Table.wf_set h a v⟩

theorem CalmPort.wake (q : Port) : CalmPort q q.wake := by
  unfold Port.wake
  split
  · rename_i h
    exact ⟨.inr ⟨h, rfl, rfl, rfl⟩, ⟨rfl, rfl, rfl, rfl, rfl⟩, rfl, rfl, rfl, rfl, rfl, rfl, rfl, rfl, rfl, rfl, rfl,
      fun h => ⟨h.1, h.2, h.3, h.4⟩, fun h => ⟨h.1, h.2, h.3, h.4, h.5, h.6, h.7, h.8, h.9⟩, id⟩
  · exact .refl q

/-- Only counts change, and each stays within 16 bits. -/
theorem CalmPort.counts_only (q : Port) (u a i b d : Nat) (h : Bool)
    (hc : q.CountsBounded → u ≤ 65535 ∧ a ≤ 65535 ∧ i ≤ 65535 ∧ b ≤ 65535 ∧ d ≤ 65535) :
    CalmPort q { q with unmatchedOutcomes := u, resultAnomalies := a, rateIgnored := i,
                        badFrames := b, discarded := d, huntCounted := h } :=
  ⟨.inl ⟨rfl, rfl, rfl⟩, ⟨rfl, rfl, rfl, rfl, rfl⟩,
    rfl, rfl, rfl, rfl, rfl, rfl, rfl, rfl, rfl, rfl, rfl, fun h => ⟨h.1, h.2, h.3,
    h.4⟩, fun h => ⟨h.1, (hc h).1, h.3, h.4, h.5, (hc h).2.1, (hc h).2.2.1, (hc h).2.2.2.1,
      (hc h).2.2.2.2⟩, id⟩

end Sys2Proof.Machine
end

