-- ==== Sys2Proof/Laws/Link.lean ====
section
/-! SUPPORT. The Control Link's sending side (R179, R180, R182): what clocking bytes out changes, whose turn it
is before and after, what placing a notice changes, and the two edges of RESET_N taken together. -/

namespace Sys2Proof.Machine

/-- What is in course of sending after `n` bytes: what was, or the record whose turn it is, `n` further. -/
theorem ControlLink.sendingAfter_cases (c : ControlLink) (n : Nat) :
    c.sendingAfter n = c.sending ∨ ∃ what, c.turn = some what ∧ 0 < n ∧
      c.sendingAfter n = some ⟨what, min (c.bytesGone + n) (c.frameOut.length - 1)⟩ := by
  unfold ControlLink.sendingAfter
  split
  · exact .inl rfl
  · next what h =>
    by_cases hn : n = 0
    · exact .inl (if_pos hn)
    · exact .inr ⟨what, h, Nat.pos_of_ne_zero hn, if_neg hn⟩

/-! Clocking bytes out changes the record in course of sending and nothing else. -/

section
variable (c : ControlLink) (n : Nat)
@[simp] theorem ControlLink.clockOut_inbound : (c.clockOut n).inbound = c.inbound := rfl
@[simp] theorem ControlLink.clockOut_reply : (c.clockOut n).reply = c.reply := rfl
@[simp] theorem ControlLink.clockOut_notices : (c.clockOut n).notices = c.notices := rfl
@[simp] theorem ControlLink.clockOut_lossPending : (c.clockOut n).lossPending = c.lossPending := rfl
@[simp] theorem ControlLink.clockOut_badFrames : (c.clockOut n).badFrames = c.badFrames := rfl
@[simp] theorem ControlLink.clockOut_overruns : (c.clockOut n).overruns = c.overruns := rfl
@[simp] theorem ControlLink.clockOut_huntCounted : (c.clockOut n).huntCounted = c.huntCounted := rfl
@[simp] theorem ControlLink.clockOut_sending : (c.clockOut n).sending = c.sendingAfter n := rfl
end

/-- Bytes clocked on a link change the Control Link's record in course of sending at most. -/
theorem State.clockBytes_eq (s : State) (n : Nat) (l : Link) :
    s.clockBytes n l = { s with cli := (s.clockBytes n l).cli } := by cases l <;> rfl

/-- A frame's last byte is clocked with the command that ends it, and no more than the whole frame is. -/
theorem State.frameBytesNow_range (s : State) {bytes : Nat} (h : 0 < bytes) :
    1 ≤ s.frameBytesNow bytes ∧ s.frameBytesNow bytes ≤ bytes :=
  have := Nat.mod_lt (Config.frameBytesClocked s.freeIx s.pending.length) h
  ⟨Nat.le_add_left .., this⟩

/-- A record begun stays the one whose turn it is, to its end (R180). -/
theorem ControlLink.turn_clockOut (c : ControlLink) (n : Nat) : (c.clockOut n).turn = c.turn := by
  obtain h | ⟨what, ht, -, h⟩ := c.sendingAfter_cases n
  · simp [ControlLink.turn, h]
  · rw [ht]; simp [ControlLink.turn, h]

theorem ControlLink.replyLeaves_clockOut (c : ControlLink) (n : Nat) :
    (c.clockOut n).replyLeaves = c.replyLeaves := by
  simp [ControlLink.replyLeaves, ControlLink.turn_clockOut]

theorem ControlLink.noticeLeaves_clockOut (c : ControlLink) (n : Nat) :
    (c.clockOut n).noticeLeaves = c.noticeLeaves := by
  simp [ControlLink.noticeLeaves, ControlLink.turn_clockOut]

/-- What is partly clocked out waits, so its bounds stand. -/
theorem ControlLink.Bounded.clockOut {c : ControlLink} (h : c.Bounded) (n : Nat) :
    (c.clockOut n).Bounded := by
  refine ⟨h.inbound, h.notices, h.completions, h.badFrames, h.overruns, fun x hx => ?_⟩
  obtain e | ⟨what, ht, -, e⟩ := c.sendingAfter_cases n
  · exact h.sending x (e ▸ hx)
  · cases e.symm.trans hx
    unfold ControlLink.turn at ht
    split at ht
    · next y hy => cases ht; exact h.sending y hy
    · split at ht
      · next hr => cases ht; exact Option.isSome_iff_ne_none.1 hr
      · split at ht
        · cases ht
        · next hn => cases ht; exact fun e => hn (List.isEmpty_iff.2 e)

/-- Placing a notice that is no COMPLETION changes the Control Link alone (R182). -/
theorem State.placeNotice_eq (s : State) (b : NoticeBody) :
    s.placeNotice b = { s with cli := s.cli.placed b } := by
  unfold State.placeNotice ControlLink.placed
  split <;> rfl

@[simp] theorem ControlLink.placedAll_nil (c : ControlLink) : c.placedAll [] = c := rfl
@[simp] theorem ControlLink.placedAll_cons (c : ControlLink) (b : NoticeBody) (bs : List NoticeBody) :
    c.placedAll (b :: bs) = (c.placed b).placedAll bs := rfl
theorem ControlLink.placedAll_append (c : ControlLink) (as bs : List NoticeBody) :
    c.placedAll (as ++ bs) = (c.placedAll as).placedAll bs := List.foldl_append

/-- RESET_N's two edges together are the reset for its cause. -/
theorem State.releaseReset_assertReset (s : State) : s.assertReset.releaseReset = s.resetTo .resetN :=
  rfl

/-- While RESET_N is low RDY and ATTN are low (R179, R180). -/
theorem State.assertReset_lines (s : State) : s.assertReset.rdy = false ∧ s.assertReset.attn = false :=
  ⟨rfl, rfl⟩

end Sys2Proof.Machine
end

