-- ==== Sys2Proof/Laws/Ops.lean ====
section
/-! SUPPORT. The operations of Sys2Proof/Machine/Ops.lean are calm (Sys2Proof/Laws/Calm.lean), but for
the ends of grants and of ports, which have lemmas of their own further down. -/

namespace Sys2Proof.Machine

/-! ### Notices and completions -/

theorem ControlLink.completionCount_append (l : List Notice) (n : Notice) :
    ((l ++ [n]).filter (fun n => n.body.isCompletion)).length =
      (l.filter (fun n => n.body.isCompletion)).length +
        (if n.body.isCompletion then 1 else 0) := by
  simp only [List.filter_append, List.length_append, List.filter_singleton]
  cases n.body.isCompletion <;> rfl

theorem Calm.appendNotice {s : State} {b : NoticeBody} (h : s.cli.notices.length < 64)
    (hc : b.isCompletion = true → s.cli.completionCount < 48) : Calm s (s.appendNotice b) := by
  refine Calm.modCli rfl rfl (fun hb => ⟨hb.inbound, ?_, ?_, hb.badFrames, hb.overruns, ?_⟩)
  · simpa using h
  · have := hb.completions
    unfold ControlLink.completionCount at this hc ⊢
    simp only [ControlLink.completionCount_append]
    split
    · have := hc (by assumption); omega
    · omega
  · intro x hx
    have := hb.sending x hx
    cases hw : x.what <;> simp_all

theorem Calm.placeNotice {s : State} {b : NoticeBody} (hc : b.isCompletion = false) :
    Calm s (s.placeNotice b) := by
  unfold State.placeNotice
  split
  · exact Calm.appendNotice (by assumption) (by simp [hc])
  · exact Calm.modCli rfl rfl (fun hb => ⟨hb.1, hb.2, hb.3, hb.4, hb.5, hb.6⟩)

theorem Station.vacantRecord_inRange : Station.vacantRecord.InRange := by
  unfold Station.InRange Station.vacantRecord; decide

theorem Calm.completeDeparture (s : State) (i : Nat) : Calm s (s.completeDeparture i) := by
  unfold State.completeDeparture
  refine ((Calm.modPort (CalmPort.setMapped _ _ _)).trans (Calm.setStation (fun _ => ?_))).trans
    (Calm.placeNotice rfl)
  exact Station.vacantRecord_inRange

theorem Calm.testDeparture (s : State) (i : Nat) : Calm s (s.testDeparture i) := by
  unfold State.testDeparture
  split
  · exact Calm.completeDeparture s i
  · exact .refl s

theorem Calm.freeSlot (s : State) (k : Nat) : Calm s (s.freeSlot k) := by
  unfold State.freeSlot
  exact ((Calm.modStation_same rfl rfl).trans (Calm.setSlot _ _ _)).trans (Calm.withFree _ _)

theorem Calm.formNotice {s : State} (h : s.cli.roomForCompletion = true) : Calm s s.formNotice := by
  unfold ControlLink.roomForCompletion at h
  simp only [Bool.and_eq_true, decide_eq_true_eq] at h
  unfold State.formNotice
  exact ((((Calm.appendNotice h.2 (fun _ => h.1)).trans (Calm.withDone _ _)).trans
    (Calm.foldl Calm.freeSlot _ _)).trans (Calm.foldl Calm.testDeparture _ _)).trans
    (Calm.withTimer _ _)

theorem Calm.formWhile (n : Nat) (s : State) : Calm s (State.formWhile n s) := by
  induction n generalizing s with
  | zero => exact .refl s
  | succ n ih =>
    unfold State.formWhile
    split
    · rename_i h
      unfold State.canForm at h
      exact (Calm.formNotice (by simp_all)).trans (ih _)
    · exact .refl s

theorem Calm.testCompletion (s : State) : Calm s s.testCompletion := Calm.formWhile _ s

theorem Calm.appendDone (s : State) (k : Nat) : Calm s (s.appendDone k) := by
  unfold State.appendDone
  dsimp only
  split
  · exact Calm.pool s _ _ s.freeStack
  · exact Calm.withDone _ _

theorem Calm.joinDone (s : State) (k : Nat) : Calm s (s.joinDone k) :=
  (Calm.appendDone s k).trans (Calm.testCompletion _)

/-! ### Records, rotations, sets -/

theorem Calm.send (s : State) (p : PortNo) (r : RadioRecord) : Calm s (s.send p r) :=
  Calm.modPort (CalmPort.outbound _ _)

theorem Calm.sendTim (s : State) (p : PortNo) (k : TimKind) (a : Nat) : Calm s (s.sendTim p k a) := by
  unfold State.sendTim
  split
  · exact Calm.send _ _ _
  · exact .refl s

theorem Calm.sendServiceEmpty (s : State) (i : Nat) : Calm s (s.sendServiceEmpty i) := by
  unfold State.sendServiceEmpty
  dsimp only
  split
  · exact .refl s
  · exact Calm.send _ _ _

theorem Calm.wake (s : State) (p : PortNo) : Calm s (s.wake p) := Calm.modPort (CalmPort.wake _)

theorem contains_false {l : List Nat} {i : Nat} (h : ¬ l.contains i = true) : i ∉ l := by
  simpa using h

theorem Calm.retestMain (s : State) (i : Nat) (zero : Bool) : Calm s (s.retestMain i zero) := by
  unfold State.retestMain
  dsimp only
  split
  · split
    · exact .refl s
    · rename_i h
      exact (Calm.modPort (CalmPort.mainRot (OnceKept.append (contains_false h)))).trans
        (Calm.wake _ _)
  · split
    · refine (Calm.modPort (CalmPort.mainRot (OnceKept.filter _ _))).trans
        (Calm.modStation (fun h => ?_))
      unfold Station.InRange at h ⊢
      dsimp only
      split <;> omega
    · exact .refl s

theorem Calm.retestExp (s : State) (i : Nat) : Calm s (s.retestExp i) := by
  unfold State.retestExp
  dsimp only
  split
  · split
    · exact .refl s
    · rename_i h
      exact (Calm.modPort (CalmPort.expRot (OnceKept.append (contains_false h)))).trans
        (Calm.wake _ _)
  · split
    · exact Calm.modPort (CalmPort.expRot (OnceKept.filter _ _))
    · exact .refl s

theorem Calm.retestUl (s : State) (i : Nat) : Calm s (s.retestUl i) := by
  unfold State.retestUl
  dsimp only
  split
  · split
    · exact .refl s
    · rename_i h
      exact (Calm.modPort (CalmPort.ulRot (OnceKept.append (contains_false h)))).trans
        (Calm.wake _ _)
  · split
    · refine (Calm.modPort (CalmPort.ulRot (OnceKept.filter _ _))).trans
        (Calm.modStation (fun h => ?_))
      unfold Station.InRange at h ⊢
      dsimp only
      omega
    · exact .refl s

theorem Calm.zeroDlOutside (s : State) (i : Nat) : Calm s (s.zeroDlOutside i) := by
  unfold State.zeroDlOutside
  dsimp only
  split
  · exact .refl s
  · refine Calm.modStation (fun h => ?_)
    unfold Station.InRange at h ⊢
    dsimp only
    omega

theorem Calm.zeroUlOutside (s : State) (i : Nat) : Calm s (s.zeroUlOutside i) := by
  unfold State.zeroUlOutside
  dsimp only
  split
  · exact .refl s
  · refine Calm.modStation (fun h => ?_)
    unfold Station.InRange at h ⊢
    dsimp only
    omega

/-- A record update that writes a saturated DL balance. -/
theorem Calm.modStation_dl {s : State} {i : Nat} {f : Station → Station} {x : Int}
    (hd : (f (s.station i)).dlBalance = satBalance x)
    (hu : (f (s.station i)).ulBalance = (s.station i).ulBalance) : Calm s (s.modStation i f) :=
  Calm.modStation (by
    intro h; have := satBalance_range x; unfold Station.InRange at h ⊢; rw [hd, hu]; omega)

/-- A record update that writes a saturated UL balance. -/
theorem Calm.modStation_ul {s : State} {i : Nat} {f : Station → Station} {x : Int}
    (hu : (f (s.station i)).ulBalance = satBalance x)
    (hd : (f (s.station i)).dlBalance = (s.station i).dlBalance) : Calm s (s.modStation i f) :=
  Calm.modStation (by
    intro h; have := satBalance_range x; unfold Station.InRange at h ⊢; rw [hd, hu]; omega)

theorem Calm.trueUpDl (s : State) (i e a : Nat) : Calm s (s.trueUpDl i e a) :=
  (Calm.modStation_dl rfl rfl).trans (Calm.zeroDlOutside _ _)

theorem Calm.trueUpUl (s : State) (i e a : Nat) : Calm s (s.trueUpUl i e a) :=
  (Calm.modStation_ul rfl rfl).trans (Calm.zeroUlOutside _ _)

theorem Calm.setDemand (s : State) (i n : Nat) : Calm s (s.setDemand i n) :=
  (Calm.modStation_same rfl rfl).trans (Calm.retestUl _ _)

theorem Calm.retestTis (s : State) (i : Nat) : Calm s (s.retestTis i) := by
  unfold State.retestTis
  dsimp only
  split
  · split
    · exact .refl s
    · rename_i h
      exact (Calm.modPort (CalmPort.tis (OnceKept.insert (contains_false h)))).trans
        (Calm.sendTim _ _ _ _)
  · split
    · exact (Calm.modPort (CalmPort.tis (OnceKept.filter _ _))).trans (Calm.sendTim _ _ _ _)
    · exact .refl s

theorem Calm.resendTis (s : State) (p : PortNo) : Calm s (s.resendTis p) :=
  (Calm.send _ _ _).trans (Calm.foldl (fun s _ => Calm.send s _ _) _ _)

/-! ### Queue events and slot transitions -/

theorem Calm.goneEvents (s : State) (i : Nat) (t : Tier) (zero : Bool) :
    Calm s (s.goneEvents i t zero) := by
  unfold State.goneEvents
  dsimp only
  have h1 : Calm s (if t = .expedited ∧ (s.station i).expFifo = [] then s.retestExp i else s) := by
    split
    · exact Calm.retestExp _ _
    · exact .refl s
  split
  · exact (h1.trans (Calm.retestMain _ _ _)).trans (Calm.retestTis _ _)
  · exact h1

theorem Calm.presentEvents (s : State) (i : Nat) (t : Tier) : Calm s (s.presentEvents i t) := by
  unfold State.presentEvents
  dsimp only
  have h1 : Calm s (if t = .expedited ∧ (s.station i).expFifo.length = 1 then s.retestExp i
      else s) := by
    split
    · exact Calm.retestExp _ _
    · exact .refl s
  split
  · exact (h1.trans (Calm.retestMain _ _ _)).trans (Calm.retestTis _ _)
  · exact h1

@[simp] theorem Station.setFifo_dlBalance (r : Station) (t : Tier) (l : List Nat) :
    (r.setFifo t l).dlBalance = r.dlBalance := by cases t <;> rfl

@[simp] theorem Station.setFifo_ulBalance (r : Station) (t : Tier) (l : List Nat) :
    (r.setFifo t l).ulBalance = r.ulBalance := by cases t <;> rfl

theorem Calm.markDone (s : State) (i k : Nat) (st : CompletionStatus) : Calm s (s.markDone i k st) :=
  (Calm.modSlot _ _ _).trans (Calm.modStation_same rfl rfl)

theorem Calm.popHead (s : State) (i : Nat) (t : Tier) : Calm s (s.popHead i t) :=
  Calm.modStation_same (by simp) (by simp)

theorem Calm.endQueued (s : State) (i : Nat) (t : Tier) (k : Nat) (st : CompletionStatus)
    (zero : Bool) : Calm s (s.endQueued i t k st zero) :=
  (((Calm.popHead _ _ _).trans (Calm.markDone _ _ _ _)).trans (Calm.goneEvents _ _ _ _)).trans
    (Calm.joinDone _ _)

theorem Calm.endInFlight (s : State) (i k : Nat) (st : CompletionStatus) :
    Calm s (s.endInFlight i k st) := (Calm.markDone _ _ _ _).trans (Calm.joinDone _ _)

theorem Calm.flushTier (s : State) (i : Nat) (t : Tier) : Calm s (s.flushTier i t) :=
  Calm.foldl (fun s _ => Calm.endQueued s _ _ _ _ _) _ _

theorem Calm.returnSlot (s : State) (i : Nat) (t : Tier) (pos k : Nat) :
    Calm s (s.returnSlot i t pos k) :=
  ((Calm.modSlot _ _ _).trans (Calm.modStation_same (by simp) (by simp))).trans
    (Calm.presentEvents _ _ _)

theorem Calm.takeHead (s : State) (i : Nat) (t : Tier) (k : Nat) : Calm s (s.takeHead i t k) :=
  ((Calm.popHead _ _ _).trans (Calm.modSlot _ _ _)).trans (Calm.goneEvents _ _ _ _)

theorem Calm.expireHeads (n i : Nat) (t : Tier) (s : State) : Calm s (State.expireHeads n i t s) := by
  induction n generalizing s with
  | zero => exact .refl s
  | succ n ih =>
    unfold State.expireHeads
    split
    · exact .refl s
    · split
      · exact (Calm.endQueued _ _ _ _ _ _).trans (ih _)
      · exact .refl s

theorem Calm.sweepStation (s : State) (i : Nat) : Calm s (s.sweepStation i) :=
  (Calm.expireHeads _ _ _ _).trans (Calm.expireHeads _ _ _ _)

theorem Calm.sweep (s : State) (p : PortNo) : Calm s (s.sweep p) := Calm.foldl Calm.sweepStation _ _

/-! ### Power save -/

@[simp] theorem InFlight.withEos_number (e : InFlight) (i : Nat) (b : Bool) :
    (e.withEos i b).number = e.number := by unfold InFlight.withEos; split <;> rfl

@[simp] theorem InFlight.withRevoke_number (e : InFlight) (i : Nat) :
    (e.withRevoke i).number = e.number := by unfold InFlight.withRevoke; split <;> rfl

theorem Calm.clearEos (s : State) (i : Nat) : Calm s (s.clearEos i) :=
  Calm.modPort (CalmPort.entries _ _ (by simp))

theorem Calm.setPs (s : State) (i : Nat) (ps : PsState) (a : Nat) (d : Word) :
    Calm s (s.setPs i ps a d) := by
  unfold State.setPs
  dsimp only
  have h0 : Calm s (if (s.station i).ps = .service ∧ ps ≠ .service then s.clearEos i else s) := by
    split
    · exact Calm.clearEos _ _
    · exact .refl s
  exact (((h0.trans (Calm.modStation_same rfl rfl)).trans (Calm.retestMain _ _ _)).trans
    (Calm.retestExp _ _)).trans (Calm.retestUl _ _)

theorem Calm.revoke (s : State) (i : Nat) : Calm s (s.revoke i) := by
  unfold State.revoke
  dsimp only
  split
  · exact (Calm.modPort (CalmPort.entries _ _ (by simp))).trans (Calm.send _ _ _)
  · exact .refl s

theorem Calm.dozeQuietly (s : State) (i : Nat) : Calm s ((s.setPs i .doze 0 0).retestTis i) :=
  (Calm.setPs _ _ _ _ _).trans (Calm.retestTis _ _)

theorem Calm.runDry (s : State) (i : Nat) : Calm s (s.runDry i) := by
  unfold State.runDry
  dsimp only
  split
  · exact (Calm.dozeQuietly _ _).trans (Calm.sendServiceEmpty _ _)
  · exact .refl s

theorem Calm.handOff (s : State) (i : Nat) (b : Bool) : Calm s (s.handOff i b) := by
  unfold State.handOff
  split
  · split
    · exact Calm.dozeQuietly _ _
    · exact Calm.runDry _ _
  · exact .refl s

theorem Calm.endServices (s : State) (p : PortNo) : Calm s (s.endServices p) :=
  Calm.foldl (fun s i => Calm.dozeQuietly s i) _ _

theorem Calm.settleLost (s : State) (e : InFlight) : Calm s (s.settleLost e) := by
  unfold State.settleLost
  split
  · exact Calm.foldl (fun s _ => Calm.endInFlight s _ _ _) _ _
  · exact .refl s

theorem Calm.loseSlot (s : State) (i k : Nat) : Calm s (s.loseSlot i k) :=
  (Calm.markDone _ _ _ _).trans (Calm.appendDone _ _)

theorem Calm.loseSlots (s : State) (e : InFlight) : Calm s (s.loseSlots e) := by
  unfold State.loseSlots
  split
  · exact Calm.foldl (fun s _ => Calm.loseSlot s _ _) _ _
  · exact .refl s

theorem Calm.countDiscard (s : State) (p : PortNo) : Calm s (s.countDiscard p) :=
  Calm.modPort (CalmPort.counts_only _ _ _ _ _ _ _
    (fun h => ⟨h.2, h.6, h.7, h.8, satCount_le _⟩))

end Sys2Proof.Machine
end

