-- ==== Sys2Proof/Laws/Still.lean ====
section
/-! SUPPORT. Operations that wake no port: a SUSPENDED port is woken only by a station's joining a
rotation (R81), so an operation after which a station qualifies for none leaves every port state as it
was. -/

namespace Sys2Proof.Machine

theorem State.retestMain_portState {s : State} {i : Nat} {z : Bool} (h : (s.station i).qualifiesMain = false) (p : PortNo) :
    ((s.retestMain i z).port p).state = (s.port p).state := by
  simp only [State.retestMain, h]
  split
  · contradiction
  · split
    · simp; split <;> simp_all
    · rfl
theorem State.retestExp_portState {s : State} {i : Nat} (h : (s.station i).qualifiesExp = false) (p : PortNo) :
    ((s.retestExp i).port p).state = (s.port p).state := by
  simp only [State.retestExp, h]
  split
  · contradiction
  · split
    · simp; split <;> simp_all
    · rfl
theorem State.retestUl_portState {s : State} {i : Nat} (h : (s.station i).qualifiesUl = false) (p : PortNo) :
    ((s.retestUl i).port p).state = (s.port p).state := by
  simp only [State.retestUl, h]
  split
  · contradiction
  · split
    · simp; split <;> simp_all
    · rfl
theorem State.send_portState (s : State) (p : PortNo) (r : RadioRecord) (p' : PortNo) :
    ((s.send p r).port p').state = (s.port p').state := by
  simp [State.send]; split <;> simp_all
theorem State.sendTim_portState (s : State) (p : PortNo) (k a) (p' : PortNo) :
    ((s.sendTim p k a).port p').state = (s.port p').state := by
  unfold State.sendTim; split
  · exact State.send_portState ..
  · rfl
theorem State.sendServiceEmpty_portState (s : State) (i : Nat) (p' : PortNo) :
    ((s.sendServiceEmpty i).port p').state = (s.port p').state := by
  unfold State.sendServiceEmpty; dsimp only; split
  · rfl
  · exact State.send_portState ..
theorem State.retestTis_portState (s : State) (i : Nat) (p : PortNo) :
    ((s.retestTis i).port p).state = (s.port p).state := by
  unfold State.retestTis; dsimp only; split
  · split
    · rfl
    · rw [State.sendTim_portState]; simp; split <;> simp_all
  · split
    · rw [State.sendTim_portState]; simp; split <;> simp_all
    · rfl

theorem State.clearEos_portState (s : State) (i : Nat) (p : PortNo) : ((s.clearEos i).port p).state = (s.port p).state := by
  simp [State.clearEos]; split <;> simp_all

theorem State.retestMain_ps (s : State) (i j : Nat) (z : Bool) : ((s.retestMain i z).station j).ps = (s.station j).ps := by
  unfold State.retestMain State.wake; dsimp only
  split <;> split <;> simp
  split <;> simp_all
theorem State.retestExp_ps (s : State) (i j : Nat) : ((s.retestExp i).station j).ps = (s.station j).ps := by
  unfold State.retestExp State.wake; dsimp only
  split <;> split <;> simp
theorem State.setPs_doze_portState (s : State) (i : Nat) (a : Nat) (d : Word) (p : PortNo) :
    ((s.setPs i .doze a d).port p).state = (s.port p).state := by
  unfold State.setPs; dsimp only
  rw [State.retestUl_portState, State.retestExp_portState, State.retestMain_portState]
  · simp; split
    · exact State.clearEos_portState ..
    · rfl
  · simp [Station.qualifiesMain]
  · simp [Station.qualifiesExp, State.retestMain_ps]
  · simp [Station.qualifiesUl, State.retestMain_ps, State.retestExp_ps]

theorem State.runDry_portState (s : State) (i : Nat) (p : PortNo) : ((s.runDry i).port p).state = (s.port p).state := by
  unfold State.runDry; dsimp only; split
  · rw [State.sendServiceEmpty_portState, State.retestTis_portState, State.setPs_doze_portState]
  · rfl
theorem State.runDryAll_portState (s : State) (l : List Nat) (p : PortNo) : ((s.runDryAll l).port p).state = (s.port p).state := by
  unfold State.runDryAll
  induction l generalizing s with
  | nil => rfl
  | cons i l ih => rw [List.foldl_cons, ih, State.runDry_portState]

@[simp] theorem State.setPort_self (s : State) (p : PortNo) : s.setPort p (s.port p) = s := by
  cases p <;> rfl

@[simp] theorem State.setPort_setPort (s : State) (p : PortNo) (q r : Port) :
    (s.setPort p q).setPort p r = s.setPort p r := by cases p <;> rfl

/-- A port that is not SUSPENDED is not woken (R81). -/
theorem State.wake_idle {s : State} {p : PortNo} (h : (s.port p).state ≠ .suspended) :
    s.wake p = s := by
  simp [State.wake, State.modPort, Port.wake, h]

/-- A SUSPENDED port is woken to RUNNING (R81, R82). -/
theorem State.wake_suspended {s : State} {p : PortNo} (h : (s.port p).state = .suspended) :
    s.wake p = s.setPort p { s.port p with
      state := .running, suspendReason := .none, resumeTimer := none } := by
  simp [State.wake, State.modPort, Port.wake, h]

end Sys2Proof.Machine
end

