-- ==== Sys2Proof/Laws/Kept.lean ====
section
/-! SUPPORT. What every operation of the part keeps: the time base, the model's counter and the queue of
waiting commands as they are, and each sound-state condition of Sys2Proof/Safety.lean where it held.
`Kept s t` says it of a change from `s` to `t`; calm operations keep it all, and so do the ends of
grants and ports, the issue of grants and whole decisions. -/

namespace Sys2Proof.Machine

structure Kept (s t : State) : Prop where
  clock : t.clock = s.clock
  freeIx : t.freeIx = s.freeIx
  pending : t.pending = s.pending
  legal : s.PortsLegal → t.PortsLegal
  listsOnce : s.ListsOnce → t.ListsOnce
  bounded : s.Bounded → t.Bounded
  canonical : s.Canonical → t.Canonical
  balances : s.BalancesInRange → t.BalancesInRange

theorem Kept.refl (s : State) : Kept s s := ⟨rfl, rfl, rfl, id, id, id, id, id⟩

theorem Kept.trans {s t u : State} (h : Kept s t) (k : Kept t u) : Kept s u :=
  ⟨k.clock.trans h.clock, k.freeIx.trans h.freeIx, k.pending.trans h.pending, k.legal ∘ h.legal,
    k.listsOnce ∘ h.listsOnce, k.bounded ∘ h.bounded, k.canonical ∘ h.canonical,
    k.balances ∘ h.balances⟩

theorem Calm.kept {s t : State} (h : Calm s t) : Kept s t :=
  ⟨h.clock, h.freeIx, h.pending, h.legal, h.listsOnce, h.bounded, h.canonical, h.balances⟩

theorem Kept.foldl {α : Type} {f : State → α → State} (hf : ∀ s a, Kept s (f s a)) (l : List α)
    (s : State) : Kept s (l.foldl f s) := by
  induction l generalizing s with
  | nil => exact .refl s
  | cons a l ih => exact (hf s a).trans (ih _)

/-- What a change of one port must keep. -/
structure KeptPort (q r : Port) : Prop where
  legal : q.Legal → r.Legal
  lists : q.ListsOnce → r.ListsOnce
  counts : q.CountsBounded → r.CountsBounded
  canonical : q.Canonical → r.Canonical

theorem KeptPort.refl (q : Port) : KeptPort q q := ⟨id, id, id, id⟩

theorem KeptPort.trans {q r w : Port} (h : KeptPort q r) (k : KeptPort r w) : KeptPort q w :=
  ⟨k.legal ∘ h.legal, k.lists ∘ h.lists, k.counts ∘ h.counts, k.canonical ∘ h.canonical⟩

theorem CalmPort.kept {q r : Port} (h : CalmPort q r) : KeptPort q r :=
  ⟨h.legal, h.lists, h.counts, fun c => ⟨by rw [h.rates]; exact c.rates, h.map c.assocMap⟩⟩

theorem Kept.modPort {s : State} {p : PortNo} {f : Port → Port}
    (hf : KeptPort (s.port p) (f (s.port p))) : Kept s (s.modPort p f) where
  clock := by simp
  freeIx := by simp
  pending := by simp
  legal h p' := by
    rw [State.modPort_port]; split
    · exact hf.legal (h p)
    · exact h p'
  listsOnce h p' := by
    rw [State.modPort_port]; split
    · exact hf.lists (h p)
    · exact h p'
  bounded h := ⟨by simpa using h.1, fun p' => by
    rw [State.modPort_port]; split
    · exact hf.counts (h.2 p)
    · exact h.2 p'⟩
  canonical h := ⟨by simpa using h.stations, by simpa using h.slots, by simpa using h.weights,
    fun p' => by
      rw [State.modPort_port]; split
      · exact hf.canonical (h.ports p)
      · exact h.ports p'⟩
  balances h i := by simpa using h i

/-- A change of the Control Link Interface that keeps its bounds. -/
theorem Kept.modCli {s : State} {f : ControlLink → ControlLink}
    (hf : s.cli.Bounded → (f s.cli).Bounded) : Kept s (s.modCli f) where
  clock := rfl
  freeIx := rfl
  pending := rfl
  legal h p := by simpa using h p
  listsOnce h p := by simpa using h p
  bounded h := ⟨hf h.1, fun p => by simpa using h.2 p⟩
  canonical h := ⟨h.stations, h.slots, h.weights, fun p => by simpa using h.ports p⟩
  balances h := h

/-- Bytes clocked on a link keep it all (R180). -/
theorem Kept.clockBytes (s : State) (n : Nat) (l : Link) : Kept s (s.clockBytes n l) := by
  cases l
  · exact Kept.modCli (f := fun c => c.clockOut n) fun h => h.clockOut n
  · exact Kept.refl s

/-! ### Ends of grants and of ports -/

theorem KeptPort.removeEntries (q : Port) (f : InFlight → Bool) :
    KeptPort q { q with inFlight := q.inFlight.filter f } where
  legal h := ⟨h.epoch, h.reason, h.resume, h.absentHold, h.holdOff, h.depth,
    Nat.le_trans (List.length_filter_le _ _) h.room, fun hl => by
      have := h.empty hl
      simp [this], h.budget, h.sinceUplink⟩
  lists h := ⟨h.1, h.2, h.3, h.4⟩
  counts h := ⟨h.1, h.2, h.3, h.4, h.5, h.6, h.7, h.8, h.9⟩
  canonical h := ⟨h.1, h.2⟩

/-- After the entry has gone, what follows at the end of a grant is calm (R123 steps 2 to 4). -/
theorem Calm.afterEntry (s : State) (p : PortNo) (e : InFlight) :
    Calm (s.modPort p fun q => { q with inFlight := q.inFlight.filter fun x => x.number != e.number })
      (s.endEntry p e) := by
  unfold State.endEntry
  dsimp only
  split
  · exact ((Calm.modStation_same rfl rfl).trans (Calm.handOff _ _ _)).trans (Calm.testDeparture _ _)
  · exact (Calm.foldl (fun s i => Calm.modStation_same rfl rfl) _ _).trans
      (Calm.foldl Calm.testDeparture _ _)

theorem Kept.endEntry (s : State) (p : PortNo) (e : InFlight) : Kept s (s.endEntry p e) :=
  (Kept.modPort (KeptPort.removeEntries _ _)).trans (Calm.afterEntry s p e).kept

/-- The numbers left in a table after an entry's end. -/
theorem State.endEntry_numbers (s : State) (p : PortNo) (e : InFlight) :
    ((s.endEntry p e).port p).inFlight.map InFlight.number =
      ((s.port p).inFlight.map InFlight.number).filter (· != e.number) := by
  rw [((Calm.afterEntry s p e).port p).numbers, State.modPort_port, if_pos rfl]
  simp only [List.filter_map]
  rfl

theorem Kept.endAllLost (s : State) (p : PortNo) : Kept s (s.endAllLost p) :=
  Kept.foldl (fun s e => (Calm.loseSlots s e).kept.trans (Kept.endEntry _ p e)) _ s

theorem State.endFold_numbers (p : PortNo) (l : List InFlight) (s : State) :
    ((l.foldl (fun s e => (s.loseSlots e).endEntry p e) s).port p).inFlight.map InFlight.number =
      ((s.port p).inFlight.map InFlight.number).filter
        (fun n => !(l.map InFlight.number).contains n) := by
  induction l generalizing s with
  | nil => simp
  | cons e l ih =>
    rw [List.foldl_cons, ih, State.endEntry_numbers, ((Calm.loseSlots s e).port p).numbers,
      List.filter_filter]
    congr 1
    funext n
    simp only [List.map_cons, List.contains_cons, bne, Bool.not_or, Bool.and_comm]

/-- A loss or a restart leaves nothing in flight. -/
theorem State.endAllLost_empty (s : State) (p : PortNo) : ((s.endAllLost p).port p).inFlight = [] := by
  have h : ((s.endAllLost p).port p).inFlight.map InFlight.number = [] := by
    unfold State.endAllLost
    rw [State.endFold_numbers, List.filter_eq_nil_iff]
    intro n hn
    simp only [Bool.not_eq_true, Bool.not_eq_false', List.contains_eq_mem, decide_eq_true_eq]
    exact hn
  exact List.map_eq_nil_iff.1 h

/-- A port at rest with nothing in flight, whatever it was before. -/
theorem KeptPort.rest (q r : Port) (st : PortState) (hs : st = .absent ∨ st = .stopped)
    (hr : r.state = st ∧ r.epochTimer = none ∧ r.resumeTimer = none ∧ r.suspendReason = .none)
    (he : r.inFlight = []) (hh : (r.hold = false ∧ r.holdReason = .none ∧ r.holdTimer = none) ∨
      (st = .stopped ∧ r.hold = q.hold ∧ r.holdReason = q.holdReason ∧ r.holdTimer = q.holdTimer))
    (hd : q.depth = r.depth ∨ (1 ≤ r.depth ∧ r.depth ≤ 4))
    (hb : r.budget = q.budget ∧ r.params = q.params ∧ r.sinceUplink = q.sinceUplink)
    (hl : q.ListsOnce → r.ListsOnce) (hc : q.CountsBounded → r.CountsBounded)
    (hk : r.rates = q.rates ∧ r.assocMap = q.assocMap) : KeptPort q r where
  legal h := by
    obtain ⟨h1, h2, h3, h4⟩ := hr
    have hlive : r.state.live = false := by rw [h1]; rcases hs with rfl | rfl <;> rfl
    refine ⟨by rw [h2, hlive]; rfl, ?_, by rw [h3, h4]; rfl, ?_, ?_, ?_, by rw [he]; simp,
      fun _ => he, by rw [hb.1, hb.2.1]; exact h.budget, by rw [hb.2.2]; exact h.sinceUplink⟩
    · rw [h4, h1]; rcases hs with rfl | rfl <;> decide
    · intro ha
      rcases hh with ⟨a, _⟩ | ⟨a, _⟩
      · exact a
      · rw [h1, a] at ha; exact absurd ha (by decide)
    · rcases hh with ⟨_, b, c⟩ | ⟨_, b, c, d⟩
      · exact fun _ => ⟨b, c⟩
      · rw [b, c, d]; exact h.holdOff
    · rcases hd with hd | hd
      · rw [← hd]; exact h.depth
      · exact hd
  lists := hl
  counts := hc
  canonical h := ⟨by rw [hk.1]; exact h.rates, by rw [hk.2]; exact h.assocMap⟩

theorem Kept.losePort (s : State) (p : PortNo) : Kept s (s.losePort p) := by
  unfold State.losePort
  refine ((((Kept.endAllLost s p).trans (Calm.endServices _ p).kept).trans ?_).trans
    (Calm.placeNotice rfl).kept).trans (Calm.testCompletion _).kept
  refine Kept.modPort (KeptPort.rest _ _ .absent (.inl rfl) ⟨rfl, rfl, rfl, rfl⟩ ?_
    (.inl ⟨rfl, rfl, rfl⟩) (.inl rfl) ⟨rfl, rfl, rfl⟩ (fun h => ⟨h.1, h.2, h.3, h.4⟩)
    (fun h => ⟨h.1, h.2, satCount_le _, h.4, h.5, h.6, h.7, h.8, h.9⟩) ⟨rfl, rfl⟩)
  have := ((Calm.endServices (s.endAllLost p) p).port p).numbers
  rw [State.endAllLost_empty] at this
  simpa [Port.rest, Port.clearHold] using this

theorem Kept.restartRadio (s : State) (p : PortNo) (d : Nat) (hd : 1 ≤ d ∧ d ≤ 4) :
    Kept s (s.restartRadio p d) := by
  unfold State.restartRadio
  refine ((((Kept.endAllLost s p).trans (Calm.endServices _ p).kept).trans ?_).trans
    (Calm.placeNotice rfl).kept).trans (Calm.testCompletion _).kept
  refine Kept.modPort (KeptPort.rest _ _ .stopped (.inr rfl) ⟨rfl, rfl, rfl, rfl⟩ ?_
    (.inl ⟨rfl, rfl, rfl⟩) (.inr hd) ⟨rfl, rfl, rfl⟩ (fun h => ⟨h.1, h.2, h.3, h.4⟩)
    (fun h => ⟨h.1, h.2, h.3, satCount_le _, h.5, h.6, h.7, h.8, h.9⟩) ⟨rfl, rfl⟩)
  have := ((Calm.endServices (s.endAllLost p) p).port p).numbers
  rw [State.endAllLost_empty] at this
  simpa [Port.rest, Port.clearHold] using this

end Sys2Proof.Machine
end

