-- ==== Sys2Proof/Laws/Decision.lean ====
section
/-! SUPPORT. Decisions (section 4.4), said once. `Advance p n s t` says that `t` follows from `s` by
calm operations and by exactly `n` issues on port `p`. A decision of a RUNNING port issues once, or
issues nothing and leaves the port SUSPENDED; decisions at an opportunity end with no opportunity
left. -/

namespace Sys2Proof.Machine

/-- How a port may differ after calm operations and `n` issues. -/
structure IssuePort (n : Nat) (q r : Port) : Prop where
  state : (r.state = q.state ∧ r.suspendReason = q.suspendReason ∧ r.resumeTimer = q.resumeTimer) ∨
    (q.state = .suspended ∧ r.state = .running ∧ r.suspendReason = .none ∧ r.resumeTimer = none)
  fixed : r.grantTimeouts = q.grantTimeouts ∧ r.portLosses = q.portLosses ∧
    r.radioRestarts = q.radioRestarts ∧ r.holdStalls = q.holdStalls ∧
    r.consecutiveTimeouts = q.consecutiveTimeouts
  hold : r.hold = q.hold
  holdReason : r.holdReason = q.holdReason
  holdTimer : r.holdTimer = q.holdTimer
  depth : r.depth = q.depth
  params : r.params = q.params
  rates : r.rates = q.rates
  epochTimer : r.epochTimer = q.epochTimer
  budget : r.budget ≤ q.budget
  sinceUplink : q.sinceUplink ≤ 15 → r.sinceUplink ≤ 15
  length : r.inFlight.length = q.inFlight.length + n
  lists : q.ListsOnce → r.ListsOnce
  counts : q.CountsBounded → r.CountsBounded
  map : Table.wf none q.assocMap → Table.wf none r.assocMap

theorem CalmPort.issue {q r : Port} (h : CalmPort q r) : IssuePort 0 q r :=
  ⟨h.state, h.fixed, h.hold, h.holdReason, h.holdTimer, h.depth, h.params, h.rates, h.epochTimer,
    h.budget ▸ Nat.le_refl _, fun k => h.sinceUplink ▸ k, h.length, h.lists, h.counts, h.map⟩

theorem IssuePort.trans {m n : Nat} {q r w : Port} (h : IssuePort m q r) (k : IssuePort n r w) :
    IssuePort (m + n) q w where
  state := by
    rcases h.state with ⟨a, b, c⟩ | ⟨a, b, c, d⟩ <;> rcases k.state with ⟨a', b', c'⟩ | ⟨a', b', c', d'⟩
    · exact .inl ⟨a'.trans a, b'.trans b, c'.trans c⟩
    · exact .inr ⟨a ▸ a', b', c', d'⟩
    · exact .inr ⟨a, a'.trans b, b'.trans c, c'.trans d⟩
    · exact .inr ⟨a, b', c', d'⟩
  fixed := ⟨k.fixed.1.trans h.fixed.1, k.fixed.2.1.trans h.fixed.2.1,
    k.fixed.2.2.1.trans h.fixed.2.2.1, k.fixed.2.2.2.1.trans h.fixed.2.2.2.1,
    k.fixed.2.2.2.2.trans h.fixed.2.2.2.2⟩
  hold := k.hold.trans h.hold
  holdReason := k.holdReason.trans h.holdReason
  holdTimer := k.holdTimer.trans h.holdTimer
  depth := k.depth.trans h.depth
  params := k.params.trans h.params
  rates := k.rates.trans h.rates
  epochTimer := k.epochTimer.trans h.epochTimer
  budget := Nat.le_trans k.budget h.budget
  sinceUplink := k.sinceUplink ∘ h.sinceUplink
  length := by rw [k.length, h.length, Nat.add_assoc]
  lists := k.lists ∘ h.lists
  counts := k.counts ∘ h.counts
  map := k.map ∘ h.map

theorem IssuePort.live {n : Nat} {q r : Port} (h : IssuePort n q r) : r.state.live = q.state.live := by
  rcases h.state with ⟨a, _, _⟩ | ⟨a, b, _, _⟩
  · rw [a]
  · rw [a, b]; rfl

theorem IssuePort.running {n : Nat} {q r : Port} (h : IssuePort n q r) (hq : q.state = .running) :
    r.state = .running := by
  rcases h.state with ⟨a, _, _⟩ | ⟨a, _, _, _⟩
  · rw [a, hq]
  · rw [hq] at a; exact absurd a (by decide)

/-- Issues on a live port within its window depth keep it sound. -/
theorem IssuePort.kept {n : Nat} {q r : Port} (h : IssuePort n q r)
    (hn : q.state.live = true ∧ q.inFlight.length + n ≤ q.depth) : KeptPort q r where
  legal hq := by
    refine ⟨by rw [h.epochTimer, h.live, hq.epoch], ?_, ?_, ?_, ?_, by rw [h.depth]; exact hq.depth,
      by rw [h.length, h.depth]; exact hn.2, ?_, ?_, h.sinceUplink hq.sinceUplink⟩
    · rcases h.state with ⟨a, b, _⟩ | ⟨_, b, c, _⟩
      · rw [a, b]; exact hq.reason
      · rw [b, c]; decide
    · rcases h.state with ⟨_, b, c⟩ | ⟨_, _, c, d⟩
      · rw [b, c]; exact hq.resume
      · rw [c, d]; decide
    · intro ha
      have := h.live
      rw [ha, hn.1] at this
      exact absurd this (by decide)
    · rw [h.hold, h.holdReason, h.holdTimer]; exact hq.holdOff
    · intro hl
      rw [h.live, hn.1] at hl
      exact absurd hl (by decide)
    · rw [h.params]; exact Nat.le_trans h.budget hq.budget
  lists := h.lists
  counts := h.counts
  canonical c := ⟨by rw [h.rates]; exact c.rates, h.map c.assocMap⟩

structure Advance (p : PortNo) (n : Nat) (s t : State) : Prop where
  clock : t.clock = s.clock
  init : t.init = s.init
  resetLow : t.resetLow = s.resetLow
  lifetimes : t.lifetimes = s.lifetimes
  weights : t.weights = s.weights
  monitor : t.monitor = s.monitor
  freeIx : t.freeIx = s.freeIx
  pending : t.pending = s.pending
  inbound : t.cli.inbound = s.cli.inbound
  reply : t.cli.reply = s.cli.reply
  cli : s.cli.Bounded → t.cli.Bounded
  port : IssuePort n (s.port p) (t.port p)
  other : ∀ p', p' ≠ p → CalmPort (s.port p') (t.port p')
  stationsWf : Table.wf Station.vacantRecord s.stations → Table.wf Station.vacantRecord t.stations
  slotsWf : Table.wf Slot.freeRecord s.slots → Table.wf Slot.freeRecord t.slots
  balances : s.BalancesInRange → t.BalancesInRange

theorem Calm.advance {s t : State} (h : Calm s t) (p : PortNo) : Advance p 0 s t :=
  ⟨h.clock, h.init, h.resetLow, h.lifetimes, h.weights, h.monitor, h.freeIx, h.pending, h.inbound, h.reply, h.cli,
    (h.port p).issue, fun p' _ => h.port p', h.stationsWf, h.slotsWf, h.balances⟩

theorem Advance.trans {p : PortNo} {m n : Nat} {s t u : State} (h : Advance p m s t)
    (k : Advance p n t u) : Advance p (m + n) s u :=
  ⟨k.clock.trans h.clock, k.init.trans h.init, k.resetLow.trans h.resetLow, k.lifetimes.trans h.lifetimes,
    k.weights.trans h.weights, k.monitor.trans h.monitor, k.freeIx.trans h.freeIx,
    k.pending.trans h.pending, k.inbound.trans h.inbound, k.reply.trans h.reply, k.cli ∘ h.cli,
    h.port.trans k.port, fun p' hp => (h.other p' hp).trans (k.other p' hp),
    k.stationsWf ∘ h.stationsWf, k.slotsWf ∘ h.slotsWf, k.balances ∘ h.balances⟩

theorem Calm.thenAdvance {p : PortNo} {n : Nat} {s t u : State} (h : Calm s t)
    (k : Advance p n t u) : Advance p n s u := by
  simpa using (h.advance p).trans k

theorem Advance.thenCalm {p : PortNo} {n : Nat} {s t u : State} (h : Advance p n s t)
    (k : Calm t u) : Advance p n s u := h.trans (k.advance p)

theorem Advance.kept {p : PortNo} {n : Nat} {s t : State} (h : Advance p n s t)
    (hn : (s.port p).state.live = true ∧ (s.port p).inFlight.length + n ≤ (s.port p).depth) :
    Kept s t := by
  have hp : ∀ p', KeptPort (s.port p') (t.port p') := fun p' => by
    by_cases e : p' = p
    · subst e; exact h.port.kept hn
    · exact (h.other p' e).kept
  exact ⟨h.clock, h.freeIx, h.pending, fun k p' => (hp p').legal (k p'),
    fun k p' => (hp p').lists (k p'), fun k => ⟨h.cli k.1, fun p' => (hp p').counts (k.2 p')⟩,
    fun k => ⟨h.stationsWf k.stations, h.slotsWf k.slots, by rw [h.weights]; exact k.weights,
      fun p' => (hp p').canonical (k.ports p')⟩, h.balances⟩

/-- A change of port `p` alone. -/
theorem Advance.modPort {s : State} {p : PortNo} {n : Nat} {f : Port → Port}
    (hf : IssuePort n (s.port p) (f (s.port p))) : Advance p n s (s.modPort p f) where
  clock := by simp
  init := by simp
  resetLow := by simp
  lifetimes := by simp
  weights := by simp
  monitor := by simp
  freeIx := by simp
  pending := by simp
  inbound := by simp
  reply := by simp
  cli := by simp
  port := by rw [State.modPort_port, if_pos rfl]; exact hf
  other p' hp := by rw [State.modPort_port, if_neg hp]; exact .refl _
  stationsWf := by simp
  slotsWf := by simp
  balances h := by intro i; simpa using h i

/-! ### Takes -/

theorem takeLoop_calm (n i : Nat) (t : Tier) (terms : TakeTerms) (slots lengths : List Nat)
    (s : State) : Calm s (takeLoop n i t terms slots lengths s).state := by
  induction n generalizing slots lengths s with
  | zero => exact .refl s
  | succ n ih =>
    unfold takeLoop
    dsimp only
    split
    · exact .refl s
    · split
      · exact (Calm.endQueued _ _ _ _ _ _).trans (ih _ _ _)
      · split
        · exact .refl s
        · split
          · exact Calm.takeHead _ _ _ _
          · exact (Calm.takeHead _ _ _ _).trans (ih _ _ _)

theorem State.takeTier_calm (s : State) (i : Nat) (t : Tier) : Calm s (s.takeTier i t).state :=
  takeLoop_calm _ _ _ _ _ _ _

theorem State.takeForMain_calm (s : State) (i : Nat) : Calm s (s.takeForMain i).1.state := by
  unfold State.takeForMain
  split
  · exact State.takeTier_calm _ _ _
  · dsimp only
    split
    · exact (State.takeTier_calm _ _ _).trans (State.takeTier_calm _ _ _)
    · exact State.takeTier_calm _ _ _

/-! ### Issue -/

theorem State.recordEntry_advance (s : State) (p : PortNo) (w : GrantWork) :
    Advance p 1 s (s.recordEntry p w) :=
  Advance.modPort ⟨.inl ⟨rfl, rfl, rfl⟩, ⟨rfl, rfl, rfl, rfl, rfl⟩,
    rfl, rfl, rfl, rfl, rfl, rfl, rfl, Nat.le_refl _, id,
    by simp, fun h => ⟨h.1, h.2, h.3, h.4⟩,
    fun h => ⟨h.1, h.2, h.3, h.4, h.5, h.6, h.7, h.8, h.9⟩, id⟩

theorem State.countSince_advance (s : State) (p : PortNo) (f : Nat → Nat)
    (hf : ∀ n, n ≤ 15 → f n ≤ 15) :
    Advance p 0 s (s.modPort p fun q => { q with sinceUplink := f q.sinceUplink }) :=
  Advance.modPort ⟨.inl ⟨rfl, rfl, rfl⟩, ⟨rfl, rfl, rfl, rfl, rfl⟩,
    rfl, rfl, rfl, rfl, rfl, rfl, rfl, Nat.le_refl _, hf _,
    rfl, fun h => ⟨h.1, h.2, h.3, h.4⟩,
    fun h => ⟨h.1, h.2, h.3, h.4, h.5, h.6, h.7, h.8, h.9⟩, id⟩

theorem State.spendBudget_advance (s : State) (p : PortNo) (n : Nat) :
    Advance p 0 s (s.modPort p fun q => { q with budget := q.budget - n }) :=
  Advance.modPort ⟨.inl ⟨rfl, rfl, rfl⟩, ⟨rfl, rfl, rfl, rfl, rfl⟩,
    rfl, rfl, rfl, rfl, rfl, rfl, rfl, Nat.sub_le _ _, id,
    rfl, fun h => ⟨h.1, h.2, h.3, h.4⟩,
    fun h => ⟨h.1, h.2, h.3, h.4, h.5, h.6, h.7, h.8, h.9⟩, id⟩

theorem State.settleAllowance_calm (s : State) (i n : Nat) : Calm s (s.settleAllowance i n).1 := by
  unfold State.settleAllowance
  dsimp only
  split
  · exact Calm.setStation (fun h => h)
  · exact .refl s

theorem State.chargeDl_calm (s : State) (i e : Nat) : Calm s (s.chargeDl i e) :=
  Calm.modStation_dl rfl rfl

theorem State.chargeUl_calm (s : State) (i a : Nat) : Calm s (s.chargeUl i a) :=
  Calm.modStation_ul rfl rfl

theorem State.issueDl_advance (s : State) (p : PortNo) (i : Nat) (t : Tier) (slots : List Nat)
    (e : Nat) : Advance p 1 s (s.issueDl p i t slots e) := by
  unfold State.issueDl
  dsimp only
  exact (((((State.settleAllowance_calm s i _).thenAdvance (State.recordEntry_advance _ _ _)).thenCalm
    (Calm.modStation_same rfl rfl)).thenCalm (Calm.send _ _ _)).trans
    (State.countSince_advance _ p (fun n => min 15 (n + 1)) (by omega)))

theorem toTail_calm {s : State} (p : PortNo) (i : Nat) :
    Calm s (s.modPort p fun q => { q with expRot := toTail i q.expRot }) :=
  Calm.modPort (CalmPort.expRot (OnceKept.toTail _ _))

theorem State.creditMain_calm (s : State) (i : Nat) : Calm s (s.creditMain i) := by
  unfold State.creditMain
  refine Calm.setStation (fun h => ?_)
  have := satBalance_range ((s.station i).dlBalance + (quantum (s.port (s.station i).port).params.dlQuantum
    (s.weight (s.station i).cls) s.monitor (s.station i).health : Nat))
  unfold Station.InRange at h ⊢
  dsimp only
  omega

theorem State.creditUl_calm (s : State) (i : Nat) : Calm s (s.creditUl i) := by
  unfold State.creditUl
  refine Calm.setStation (fun h => ?_)
  have := satBalance_range ((s.station i).ulBalance + (quantum (s.port (s.station i).port).params.ulQuantum
    (s.weight (s.station i).cls) s.monitor (s.station i).health : Nat))
  unfold Station.InRange at h ⊢
  dsimp only
  omega

theorem State.tailMain_calm (s : State) (p : PortNo) (i : Nat) : Calm s (s.tailMain p i) :=
  (Calm.modPort (CalmPort.mainRot (OnceKept.toTail _ _))).trans (Calm.modStation_same rfl rfl)

theorem State.tailUl_calm (s : State) (p : PortNo) (i : Nat) : Calm s (s.tailUl p i) :=
  (Calm.modPort (CalmPort.ulRot (OnceKept.toTail _ _))).trans (Calm.modStation_same rfl rfl)

theorem State.creditedMain_calm (s : State) (i : Nat) : Calm s (s.creditedMain i) := by
  unfold State.creditedMain
  split
  · exact .refl s
  · exact State.creditMain_calm s i

theorem State.creditedUl_calm (s : State) (i : Nat) : Calm s (s.creditedUl i) := by
  unfold State.creditedUl
  split
  · exact .refl s
  · exact State.creditUl_calm s i

theorem State.serveExpedited_advance (s : State) (p : PortNo) (i : Nat) (l : List Nat) (e : Nat) :
    Advance p 1 s (s.serveExpedited p i l e) := by
  unfold State.serveExpedited
  dsimp only
  have h := (((State.chargeDl_calm s i e).thenAdvance (State.spendBudget_advance _ p e)).trans
    (State.issueDl_advance _ p i .expedited l e)).thenCalm (Calm.zeroDlOutside _ i)
  split
  · exact h.thenCalm (toTail_calm p i)
  · exact h

theorem State.serveMain_advance (s : State) (p : PortNo) (i : Nat) (t : Tier) (l : List Nat)
    (e : Nat) : Advance p 1 s (s.serveMain p i t l e) := by
  unfold State.serveMain
  dsimp only
  have h := ((State.chargeDl_calm s i e).thenAdvance
    (State.issueDl_advance _ p i t l e)).thenCalm (Calm.zeroDlOutside _ i)
  split
  · exact h.thenCalm (State.tailMain_calm _ p i)
  · exact h

/-- What a step of a decision has done when it leaves off. -/
def Progress.Sound (p : PortNo) (s : State) (d : Progress) : Prop :=
  if d.issued then Advance p 1 s d.state else Calm s d.state

theorem Progress.Sound.after {p : PortNo} {s t : State} {d : Progress} (h : Calm s t)
    (k : Progress.Sound p t d) : Progress.Sound p s d := by
  unfold Progress.Sound at k ⊢
  split
  · rw [if_pos (by assumption)] at k; exact h.thenAdvance k
  · rw [if_neg (by assumption)] at k; exact h.trans k

theorem expeditedStep_sound (n : Nat) (p : PortNo) (gone : List Nat) (s : State) :
    Progress.Sound p s (expeditedStep n p gone s) := by
  induction n generalizing gone s with
  | zero => exact Calm.refl s
  | succ n ih =>
    unfold expeditedStep
    dsimp only
    split
    · exact Calm.refl s
    · rename_i i _
      split
      · exact Progress.Sound.after ((State.takeTier_calm s i _).trans (Calm.zeroDlOutside _ _)) (ih _ _)
      · exact (State.takeTier_calm s i .expedited).thenAdvance
          (State.serveExpedited_advance _ p i _ _)

theorem mainStep_sound (n : Nat) (p : PortNo) (pos : Nat) (gone : List Nat) (s : State) :
    Progress.Sound p s (mainStep n p pos gone s) := by
  induction n generalizing pos gone s with
  | zero => exact Calm.refl s
  | succ n ih =>
    unfold mainStep
    dsimp only
    split
    · exact Calm.refl s
    · rename_i i _
      split
      · exact ih _ _ _
      · have h1 := State.creditedMain_calm s i
        split
        · exact Progress.Sound.after (h1.trans (State.tailMain_calm _ p i)) (ih _ _ _)
        · have h2 := h1.trans (State.takeForMain_calm _ i)
          split
          · exact Progress.Sound.after (h2.trans (Calm.zeroDlOutside _ i)) (ih _ _ _)
          · exact h2.thenAdvance (State.serveMain_advance _ p i _ _ _)

/-! ### Windows -/

theorem collect_calm (n : Nat) (p : PortNo) (pos : Nat) (inv : List Invitation) (total : Nat)
    (s : State) : Calm s (collect n p pos inv total s).1 := by
  induction n generalizing pos inv total s with
  | zero => exact .refl s
  | succ n ih =>
    unfold collect
    split
    · exact .refl s
    · split
      · exact .refl s
      · rename_i i _
        split
        · exact ih _ _ _ _
        · dsimp only
          have h1 := State.creditedUl_calm s i
          split
          · exact (h1.trans (State.tailUl_calm _ p i)).trans (ih _ _ _ _)
          · split
            · exact h1.trans (ih _ _ _ _)
            · exact h1

theorem State.issueUl_advance (s : State) (p : PortNo) (inv : List Invitation) (total : Nat) :
    Advance p 1 s (s.issueUl p inv total) := by
  unfold State.issueUl
  dsimp only
  refine (((((State.recordEntry_advance s p _).thenCalm (Calm.foldl (fun s v =>
    Calm.modStation_same rfl rfl) _ _)).thenCalm (Calm.send _ _ _)).thenCalm
    (Calm.foldl (fun s v => State.chargeUl_calm s _ _) _ _)).thenCalm
    (Calm.foldl (fun s v => ?_) _ _)).trans
    (State.countSince_advance _ p (fun _ => 0) (fun _ _ => Nat.zero_le _))
  split
  · exact State.tailUl_calm s p _
  · exact .refl s

theorem askWindow_sound (p : PortNo) (left : Nat) (gone : List Nat) (s : State) :
    Progress.Sound p s (askWindow p left gone s) := by
  unfold askWindow
  have h := collect_calm 64 p 0 [] 0 s
  dsimp only
  split
  · exact h
  · exact h.thenAdvance (State.issueUl_advance _ p _ _)

/-! ### Decisions -/

theorem State.runDryAll_calm (s : State) (l : List Nat) : Calm s (s.runDryAll l) :=
  Calm.foldl Calm.runDry _ _

/-- How a decision ends (R71, R80): with one issue, or with the port SUSPENDED after calm operations
and more calm operations to follow that wake no port. -/
theorem State.decision_cases (s : State) (p : PortNo) :
    Advance p 1 s (s.decision p) ∨
      ∃ u r, r ≠ .none ∧ Calm s u ∧ Calm (u.suspend p r) (s.decision p) ∧
        ((s.decision p).port p).state = .suspended := by
  unfold State.decision
  split
  · exact .inr ⟨s, .noRates, by decide, .refl s, .refl _, by simp [State.suspend]⟩
  · have s1 : Progress.Sound p s (if 0 < (s.port p).budget then expeditedStep 64 p [] s
        else ⟨s, false, 64, []⟩) := by
      split
      · exact expeditedStep_sound _ _ _ _
      · exact Calm.refl s
    generalize (if 0 < (s.port p).budget then expeditedStep 64 p [] s
      else (⟨s, false, 64, []⟩ : Progress)) = d1 at s1 ⊢
    dsimp only
    split
    · rename_i h
      unfold Progress.Sound at s1
      rw [if_pos h] at s1
      exact .inl (s1.thenCalm (State.runDryAll_calm _ _))
    · rename_i h1
      unfold Progress.Sound at s1
      rw [if_neg h1] at s1
      generalize hturn : (decide (0 < (d1.state.port p).params.ulRatio ∧
        (d1.state.port p).params.ulRatio ≤ (d1.state.port p).sinceUplink) &&
        !(d1.state.port p).ulRot.isEmpty) = turn
      have s2 : Progress.Sound p s (if turn = true then askWindow p d1.left d1.gone d1.state
          else d1) := by
        split
        · exact Progress.Sound.after s1 (askWindow_sound _ _ _ _)
        · unfold Progress.Sound; rw [if_neg h1]; exact s1
      generalize (if turn = true then askWindow p d1.left d1.gone d1.state else d1) = d2 at s2 ⊢
      split
      · rename_i h
        unfold Progress.Sound at s2
        rw [if_pos h] at s2
        exact .inl (s2.thenCalm (State.runDryAll_calm _ _))
      · rename_i h2
        unfold Progress.Sound at s2
        rw [if_neg h2] at s2
        have s3 : Progress.Sound p s (mainStep d2.left p 0 d2.gone d2.state) :=
          Progress.Sound.after s2 (mainStep_sound _ _ _ _ _)
        generalize mainStep d2.left p 0 d2.gone d2.state = d3 at s3 ⊢
        split
        · rename_i h
          unfold Progress.Sound at s3
          rw [if_pos h] at s3
          exact .inl (s3.thenCalm (State.runDryAll_calm _ _))
        · rename_i h3
          unfold Progress.Sound at s3
          rw [if_neg h3] at s3
          generalize (decide (0 < (d3.state.port p).params.ulRatio) &&
            !(d3.state.port p).ulRot.isEmpty && !turn) = fb
          have s4 : Progress.Sound p s (if fb = true then askWindow p d3.left d3.gone d3.state
              else d3) := by
            split
            · exact Progress.Sound.after s3 (askWindow_sound _ _ _ _)
            · unfold Progress.Sound; rw [if_neg h3]; exact s3
          generalize (if fb = true then askWindow p d3.left d3.gone d3.state else d3) = d4 at s4 ⊢
          split
          · rename_i h
            unfold Progress.Sound at s4
            rw [if_pos h] at s4
            exact .inl (s4.thenCalm (State.runDryAll_calm _ _))
          · rename_i h4
            unfold Progress.Sound at s4
            rw [if_neg h4] at s4
            exact .inr ⟨d4.state, _, by split <;> decide, s4, State.runDryAll_calm _ _, by
              rw [State.runDryAll_portState]; simp [State.suspend]⟩

theorem KeptPort.suspend (q : Port) (r : SuspendReason) (hr : r ≠ .none)
    (hq : q.state.live = true) : KeptPort q
      { q with state := .suspended, suspendReason := r,
               resumeTimer := if r = .examinationLimit then some 1000 else none } where
  legal h := by
    refine ⟨?_, ?_, ?_, ?_, h.holdOff, h.depth, h.room, ?_, h.budget, h.sinceUplink⟩
    · rw [h.epoch, hq]; rfl
    · simp [hr]
    · cases r <;> rfl
    · intro ha; cases ha
    · intro hl; cases hl
  lists h := ⟨h.1, h.2, h.3, h.4⟩
  counts h := ⟨h.1, h.2, h.3, h.4, h.5, h.6, h.7, h.8, h.9⟩
  canonical h := ⟨h.1, h.2⟩

theorem Port.hasOpportunity_iff (q : Port) : q.hasOpportunity = true ↔
    q.state = .running ∧ q.hold = false ∧ q.inFlight.length < q.depth := by
  simp [Port.hasOpportunity, and_assoc]

/-- A decision made at an opportunity keeps what every operation keeps. -/
theorem Kept.decision (s : State) (p : PortNo) (h : (s.port p).hasOpportunity = true) :
    Kept s (s.decision p) := by
  obtain ⟨h1, -, h3⟩ := (Port.hasOpportunity_iff _).1 h
  rcases State.decision_cases s p with a | ⟨u, r, hr, c, d, -⟩
  · exact a.kept ⟨by rw [h1]; rfl, by omega⟩
  · refine (c.kept.trans (Kept.modPort (KeptPort.suspend _ _ hr ?_))).trans d.kept
    rw [(c.port p).live, h1]; rfl

theorem Kept.opportunityLoop (n : Nat) (p : PortNo) (s : State) : Kept s (opportunityLoop n p s) := by
  induction n generalizing s with
  | zero => exact .refl s
  | succ n ih =>
    unfold Machine.opportunityLoop
    split
    · exact (Kept.decision s p (by assumption)).trans (ih _)
    · exact .refl s

theorem Kept.opportunity (s : State) (p : PortNo) : Kept s (s.opportunity p) :=
  Kept.opportunityLoop _ _ _

/-- Decisions made one after another leave no opportunity (R116). -/
theorem opportunityLoop_none (n : Nat) (p : PortNo) (s : State)
    (h : (s.port p).depth - (s.port p).inFlight.length ≤ n) :
    ((Machine.opportunityLoop n p s).port p).hasOpportunity = false := by
  induction n generalizing s with
  | zero =>
    unfold Machine.opportunityLoop
    cases hx : (s.port p).hasOpportunity
    · rfl
    · have := ((Port.hasOpportunity_iff _).1 hx).2.2
      omega
  | succ n ih =>
    unfold Machine.opportunityLoop
    split
    · rcases State.decision_cases s p with a | ⟨u, r, hr, c, d, e⟩
      · apply ih
        rw [a.port.depth, a.port.length]; omega
      · have : ((s.decision p).port p).hasOpportunity = false := by
          simp [Port.hasOpportunity, e]
        cases n with
        | zero => exact this
        | succ n => unfold Machine.opportunityLoop; rw [if_neg (by simp [this])]; exact this
    · rename_i hx; simpa using hx

/-- After the Grant Engine has asked for decisions the port has no opportunity (R116). -/
theorem State.opportunity_none (s : State) (p : PortNo) :
    ((s.opportunity p).port p).hasOpportunity = false :=
  opportunityLoop_none _ _ _ (Nat.le_refl _)

/-- What decisions never change of their port: its rates, parameters, hold and depth. -/
theorem opportunityLoop_fixed (n : Nat) (p : PortNo) (s : State) :
    ((Machine.opportunityLoop n p s).port p).rates = (s.port p).rates := by
  induction n generalizing s with
  | zero => rfl
  | succ n ih =>
    unfold Machine.opportunityLoop
    split
    · rw [ih]
      rcases State.decision_cases s p with a | ⟨u, r, hr, c, d, e⟩
      · exact a.port.rates
      · rw [(d.port p).rates, ← (c.port p).rates]; simp [State.suspend]
    · rfl

theorem State.opportunity_rates (s : State) (p : PortNo) :
    ((s.opportunity p).port p).rates = (s.port p).rates := opportunityLoop_fixed _ _ _

theorem Kept.completeDrain (s : State) (p : PortNo) (h : (s.port p).inFlight = []) :
    Kept s (s.completeDrain p) :=
  (Kept.modPort (KeptPort.rest _ _ .stopped (.inr rfl) ⟨rfl, rfl, rfl, rfl⟩ h
    (.inr ⟨rfl, rfl, rfl, rfl⟩) (.inl rfl) ⟨rfl, rfl, rfl⟩ (fun h => ⟨h.1, h.2, h.3, h.4⟩)
    (fun h => ⟨h.1, h.2, h.3, h.4, h.5, h.6, h.7, h.8, h.9⟩) ⟨rfl, rfl⟩)).trans
    (Calm.placeNotice rfl).kept

theorem Kept.considerPort (s : State) (p : PortNo) : Kept s (s.considerPort p) := by
  unfold State.considerPort
  split
  · rename_i h; exact Kept.completeDrain s p h.2
  · exact (Calm.wake s p).kept.trans (Kept.opportunity _ _)

end Sys2Proof.Machine
end

