-- ==== Sys2Proof/Laws/Chain.lean ====
section
/-! SUPPORT. The chains of Sys2Proof/Safety.lean: decisions that follow one another while a port has an
opportunity (R116), COMPLETION notices formed while R147 has them formed, frames that end one by one. -/

namespace Sys2Proof.Machine

/-! ### Decisions -/

/-- Without an opportunity no decision follows. -/
theorem State.Decides.refl {s : State} {p : PortNo} (h : (s.port p).hasOpportunity = false) :
    s.Decides s p := ⟨0, rfl, nofun, h⟩

/-- One decision more at the front of a chain. -/
theorem State.Decides.cons {s t : State} {p : PortNo} (h : (s.port p).hasOpportunity = true)
    (ht : (s.decision p).Decides t p) : s.Decides t p := by
  obtain ⟨n, rfl, hn, hl⟩ := ht
  refine ⟨n + 1, rfl, fun m hm => ?_, hl⟩
  cases m with
  | zero => exact h
  | succ m => exact hn m (Nat.succ_lt_succ_iff.1 hm)

/-- A port at rest makes no decision. -/
theorem State.Decides.eq_self {s t : State} {p : PortNo} (h : (s.port p).hasOpportunity = false)
    (ht : s.Decides t p) : t = s := by
  obtain ⟨n, rfl, hn, -⟩ := ht
  cases n with
  | zero => rfl
  | succ n => exact absurd (hn 0 n.succ_pos) (by simp [h])

/-- Enough decisions one after another are a whole chain (R116). -/
theorem opportunityLoop_decides (n : Nat) (p : PortNo) (s : State)
    (h : ((opportunityLoop n p s).port p).hasOpportunity = false) :
    s.Decides (opportunityLoop n p s) p := by
  induction n generalizing s with
  | zero => exact .refl h
  | succ n ih =>
    unfold opportunityLoop at h ⊢
    split at h
    · next ho => rw [if_pos ho]; exact .cons ho (ih _ h)
    · next ho => rw [if_neg ho]; exact .refl h

/-- The Grant Engine's decisions are a whole chain (R116). -/
theorem State.opportunity_decides (s : State) (p : PortNo) : s.Decides (s.opportunity p) p :=
  opportunityLoop_decides _ p s (s.opportunity_none p)

/-! ### COMPLETION notices -/

/-- The model's test of R147 is the condition the statements read. -/
theorem State.canForm_iff (s : State) : s.canForm = true ↔ s.mayForm := by
  simp only [State.canForm, ControlLink.roomForCompletion, Bool.and_eq_true, Bool.or_eq_true,
    decide_eq_true_eq, Bool.not_eq_true', List.isEmpty_eq_false_iff, beq_iff_eq, and_assoc]
  exact Iff.rfl

/-- While the Done List may grow no COMPLETION notice is to be formed. -/
theorem State.Quiet.rests {s : State} {n : Nat} (h : s.Quiet n) : ¬ s.mayForm := fun hf => by
  obtain ⟨-, -, h16 | ⟨-, ht⟩⟩ := hf
  · exact absurd h.short (by omega)
  · exact h.timer ht

/-- With no notice to be formed nothing changes. -/
theorem State.Completes.eq_self {s t : State} (h : ¬ s.mayForm) (ht : s.Completes t) : t = s := by
  cases ht with
  | rest => rfl
  | form hf => exact absurd hf h

/-! ### Frames that end -/

@[simp] theorem State.each_nil {α : Type} (ends : State → State → α → Prop) (s t : State) :
    State.Each ends [] s t ↔ t = s := Iff.rfl

@[simp] theorem State.each_cons {α : Type} (ends : State → State → α → Prop) (x : α) (xs : List α)
    (s t : State) : State.Each ends (x :: xs) s t ↔
      ∃ u v, ends s u x ∧ u.Completes v ∧ State.Each ends xs v t := Iff.rfl

/-- Two chains one behind the other are one chain. -/
theorem State.each_append {α : Type} (ends : State → State → α → Prop) (xs ys : List α) (s t : State) :
    State.Each ends (xs ++ ys) s t ↔ ∃ u, State.Each ends xs s u ∧ State.Each ends ys u t := by
  induction xs generalizing s with
  | nil => simp
  | cons x xs ih =>
    simp only [List.cons_append, State.each_cons, ih]
    constructor
    · rintro ⟨u, v, he, hc, w, h1, h2⟩; exact ⟨w, ⟨u, v, he, hc, h1⟩, h2⟩
    · rintro ⟨w, ⟨u, v, he, hc, h1⟩, h2⟩; exact ⟨u, v, he, hc, w, h1, h2⟩

end Sys2Proof.Machine
end

