-- ==== Sys2Proof/Laws/PerInstr.lean ====
section
/-! SUPPORT. What holds of every command as syntax: the record a well-formed radio command stands for
keeps within the 1024 body bytes of a frame (R176). One lemma for each constructor of `Instr`; a command
that is no radio record stands for none. -/

namespace Sys2Proof.Laws.BodyBound

/-- A well-formed command's record has a body of at most 1024 bytes. -/
def Statement (i : Instr) : Prop :=
  WellFormed i → ∀ t b, encodeRadio i = some (t, b) → b.length ≤ 1024

theorem toLe_length (k n : Nat) : (toLe k n).length = k := by
  induction k generalizing n with
  | zero => rfl
  | succ k ih => simp [toLe, ih]

theorem encodeDemand_length (d : Option (BitVec 24)) : (encodeDemand d).length = 4 := by
  cases d <;> simp [encodeDemand, toLe_length]

theorem encodeUlEntry_length (e : UlEntry) : (encodeUlEntry e).length = 11 := by
  simp [encodeUlEntry, toLe_length, encodeDemand_length]

theorem entries_length (es : List UlEntry) :
    (es.flatMap encodeUlEntry).length = 11 * es.length := by
  induction es with
  | nil => rfl
  | cons e es ih => simp [List.flatMap_cons, encodeUlEntry_length, ih]; omega

/-- A command that stands for no record. -/
theorem silent {i : Instr} (h : encodeRadio i = none) : Statement i := by
  intro _ t b e; rw [h] at e; cases e

/-- A command whose record's body is known. -/
theorem spoken {i : Instr} {u : Byte} {c : List Byte} (h : encodeRadio i = some (u, c))
    (hc : WellFormed i → c.length ≤ 1024) : Statement i := by
  intro w t b e; rw [h] at e; cases e; exact hc w

theorem resetN : Statement .resetN := silent rfl

theorem initializationComplete : Statement .initializationComplete := silent rfl

theorem controlFrameReceived (f : Frame) : Statement (.controlFrameReceived f) := silent rfl

theorem frameDiscarded (l : Link) (d : Damage) : Statement (.frameDiscarded l d) := silent rfl

theorem csNRaisedMidFrame : Statement .csNRaisedMidFrame := silent rfl

theorem badType : Statement .badType := silent rfl

theorem replySent : Statement .replySent := silent rfl

theorem noticeSent : Statement .noticeSent := silent rfl

theorem configurePort : Statement .configurePort := silent rfl

theorem loadRates : Statement .loadRates := silent rfl

theorem setWeights : Statement .setWeights := silent rfl

theorem setMonitor : Statement .setMonitor := silent rfl

theorem setLifetimes : Statement .setLifetimes := silent rfl

theorem startPort : Statement .startPort := silent rfl

theorem stopPort : Statement .stopPort := silent rfl

theorem admitStation : Statement .admitStation := silent rfl

theorem update : Statement .update := silent rfl

theorem depart : Statement .depart := silent rfl

theorem queryStation : Statement .queryStation := silent rfl

theorem enqueue : Statement .enqueue := silent rfl

theorem flush : Statement .flush := silent rfl

theorem status : Statement .status := silent rfl

theorem resetPart : Statement .resetPart := silent rfl

theorem resetPartTakesEffect : Statement .resetPartTakesEffect := silent rfl

theorem hello (p : PortNo) (depth : Byte) : Statement (.hello p depth) :=
  spoken rfl fun _ => by simp

theorem outcome (p : PortNo) (o : OutcomeRecord) : Statement (.outcome p o) :=
  spoken rfl fun w => by
    have h : o.results.length ≤ 255 := w
    simp [toLe_length, encodeDemand_length]; omega

theorem ulOutcome (p : PortNo) (o : UlOutcomeRecord) : Statement (.ulOutcome p o) :=
  spoken rfl fun w => by
    have h : o.entries.length ≤ 92 := w
    simp only [List.length_cons, List.length_append, toLe_length, entries_length]; omega

theorem demand (p : PortNo) (assoc : Half) (bytes : Word) : Statement (.demand p assoc bytes) :=
  spoken rfl fun _ => by simp [toLe_length]

theorem psEventDoze (p : PortNo) (assoc : Half) : Statement (.psEventDoze p assoc) :=
  spoken rfl fun _ => by simp [toLe_length]

theorem psEventWake (p : PortNo) (assoc : Half) : Statement (.psEventWake p assoc) :=
  spoken rfl fun _ => by simp [toLe_length]

theorem psEventTrigger (p : PortNo) (assoc : Half) : Statement (.psEventTrigger p assoc) :=
  spoken rfl fun _ => by simp [toLe_length]

theorem psEventDiscarded (p : PortNo) (assoc : Half) (kind : Byte) : Statement (.psEventDiscarded p assoc kind) :=
  spoken rfl fun _ => by simp [toLe_length]

theorem hold (p : PortNo) (reason : Byte) : Statement (.hold p reason) :=
  spoken rfl fun _ => by simp

theorem resume (p : PortNo) : Statement (.resume p) := spoken rfl fun _ => by simp

theorem radioRecordDiscarded (p : PortNo) (type : Byte) (body : List Byte) : Statement (.radioRecordDiscarded p type body) :=
  spoken rfl fun w => w.1

theorem grantTimeout (p : PortNo) (number : Byte) : Statement (.grantTimeout p number) := silent rfl

theorem epochExpiry (p : PortNo) : Statement (.epochExpiry p) := silent rfl

theorem resumeTimerExpiry (p : PortNo) : Statement (.resumeTimerExpiry p) := silent rfl

theorem holdTimerExpiry (p : PortNo) : Statement (.holdTimerExpiry p) := silent rfl

theorem serviceDeadline (station : Nat) : Statement (.serviceDeadline station) := silent rfl

theorem coalescingTimerExpiry : Statement .coalescingTimerExpiry := silent rfl

theorem huntByteSkipped (l : Link) (b : Byte) : Statement (.huntByteSkipped l b) := silent rfl

end Sys2Proof.Laws.BodyBound
end

