-- ==== Sys2Proof/Tests/Slice0.lean ====
section
/-! SUPPORT. The model's own tests: ill-formed commands refused, the manual's worked figures, one or two
small steps of each command, and for each statement with hypotheses a state that meets them. -/

open Sys2Proof Sys2Proof.Machine

namespace Sys2Proof.Tests

-- One theorem at a time: many small theorems compiled at once take a thread each.
set_option Elab.async false

/-! ### A small state

Port 0 is RUNNING, with two downlink grants and an uplink window in flight. Station 3 is AWAKE with a frame
queued and one on the air, station 4 is invited, station 5 dozes with a frame, station 6 dozes without,
station 7 is DEPARTING and invited, station 8 is in SERVICE with a frame, station 9 is in SERVICE with its
last frame on the air, station 10 is AWAKE with an EXPEDITED frame. Port 1 is ABSENT. What the tests vary
is in `Busy`. -/

/-- `timeouts`: in a row; `epoch`: the epoch timer; `eos`: the end-of-service flag of station 9's grant;
`balance`: the DL balance of stations 8 and 10; `full`: the in-flight table is full; `asleep`: port 0 is
SUSPENDED. -/
structure Busy where
  cli       : ControlLink := ControlLink.afterReset
  timeouts  : Nat := 0
  epoch     : Nat := 0
  eos       : Bool := true
  hold      : Bool := true
  spent     : Bool := false
  ratio     : Nat := 3
  dlQuantum : Nat := 4000
  balance   : Int := 0
  full      : Bool := false
  asleep    : Bool := false
  lifetimes : Lifetimes := Lifetimes.defaults

def station3 : Station := { Station.vacantRecord with
  state := .active, assoc := 7, rateCode := 14, holding := 2, stdFifo := [1], dlBalance := 50,
  dlInFlight := true, demand := 100 }
def station4 : Station := { Station.vacantRecord with
  state := .active, assoc := 8, rateCode := 14, demand := 500, ulInFlight := true }
def station5 : Station := { Station.vacantRecord with
  state := .active, assoc := 9, ps := .doze, stdFifo := [2], holding := 1 }
def station6 : Station := { Station.vacantRecord with state := .active, assoc := 10, ps := .doze }
def station7 : Station := { Station.vacantRecord with
  state := .departing, assoc := 12, ulInFlight := true }
def station8 (b : Int) : Station := { Station.vacantRecord with
  state := .active, assoc := 11, ps := .service, allowance := 2, deadline := 5, stdFifo := [3],
  holding := 1, dlBalance := b }
def station9 : Station := { Station.vacantRecord with
  state := .active, assoc := 13, ps := .service, deadline := 60, holding := 1, dlInFlight := true }
def station10 (b : Int) : Station := { Station.vacantRecord with
  state := .active, assoc := 14, expFifo := [5], holding := 1, dlBalance := b }

def rates : Table RateEntry := [(3, ⟨12, 200, 38, true⟩), (14, ⟨1040, 120, 38, true⟩)]

def grant9 : InFlight := ⟨9, 0, 20, .dl 3 .standard [0] 412 false false⟩
def window10 : InFlight := ⟨10, 0, 20, .ul [⟨4, 378⟩, ⟨7, 192⟩] 570⟩
def grant12 (eos : Bool) : InFlight := ⟨12, 0, 20, .dl 9 .expedited [4] 2259 eos false⟩

def Busy.port (x : Busy) : Port := { Port.afterReset with
  state := if x.asleep then .suspended else .running
  suspendReason := if x.asleep then .idle else .none
  hold := x.hold, holdReason := if x.hold then .other else .none
  holdTimer := if x.hold then some 0 else none, depth := if x.full then 3 else 4
  inFlight := [grant9, window10, grant12 x.eos], nextNumber := 11, consecutiveTimeouts := x.timeouts
  params := { PortParams.defaults with trim := 2, ulRatio := x.ratio, dlQuantum := x.dlQuantum }
  rates := rates, budget := if x.spent then 0 else 25000
  mainRot := [3, 8, 10], expRot := [10], ulRot := [4, 3], epochTimer := some x.epoch
  assocMap := [(7, some 3), (8, some 4), (9, some 5), (10, some 6), (11, some 8), (12, some 7),
    (13, some 9), (14, some 10)]
  tis := [5, 8] }

def Busy.state (x : Busy) : State := { State.reset with
  clock := ⟨50, 0, 25⟩, init := ⟨false, 0, .resetN⟩, cli := x.cli, lifetimes := x.lifetimes
  stations := [(3, station3), (4, station4), (5, station5), (6, station6), (7, station7),
    (8, station8 x.balance), (9, station9), (10, station10 x.balance)]
  slots := [(0, ⟨.inFlight, 100, 3, .standard, 1500, false, 0, .delivered, true⟩),
    (1, ⟨.queued, 101, 3, .standard, 1500, false, 0, .delivered, true⟩),
    (2, ⟨.queued, 102, 5, .standard, 1500, false, 0, .delivered, true⟩),
    (3, ⟨.queued, 103, 8, .standard, 1500, false, 0, .delivered, true⟩),
    (4, ⟨.inFlight, 104, 9, .expedited, 1500, false, 0, .delivered, true⟩),
    (5, ⟨.queued, 105, 10, .expedited, 1500, false, 0, .delivered, true⟩)]
  freeStack := List.range' 6 4090, port0 := x.port }

def busyWith (cli : ControlLink) (timeouts epoch : Nat) : State := Busy.state { cli, timeouts, epoch }

def busy : State := busyWith ControlLink.afterReset 0 0

/-- `busy` with a record waiting to be handled. -/
def waiting (type : Byte) (body : List Byte) : State :=
  busyWith { ControlLink.afterReset with inbound := [⟨type, 7, body⟩] } 0 0

theorem busy_port (x : Busy) (p : PortNo) :
    x.state.port p = if p = .zero then x.port else Port.afterReset := by
  cases p <;> rfl

theorem busy_station (x : Busy) (i : Nat) : x.state.station i =
    if i = 3 then station3 else if i = 4 then station4 else if i = 5 then station5
    else if i = 6 then station6 else if i = 7 then station7 else if i = 8 then station8 x.balance
    else if i = 9 then station9 else if i = 10 then station10 x.balance
    else Station.vacantRecord := by
  simp only [State.station, Busy.state, Table.get, eq_comm]

/-- `busy` lists its slots 0 to 5 alone. -/
theorem busy_slot (x : Busy) (k : Nat) (h : 6 ≤ k) : x.state.slot k = Slot.freeRecord :=
  Table.get_unlisted fun hk => absurd h (Nat.not_le.2 (List.mem_range.1 (show k ∈ List.range 6 from hk)))

/-- Station `i` is one of the eight of `busy`, or VACANT. -/
theorem busy_cases (x : Busy) (i : Nat) : i = 3 ∨ i = 4 ∨ i = 5 ∨ i = 6 ∨ i = 7 ∨ i = 8 ∨ i = 9 ∨
    i = 10 ∨ ((i < 3 ∨ 10 < i) ∧ x.state.station i = Station.vacantRecord) := by
  by_cases h : i ∈ List.range' 3 8
  · have := List.mem_range'_1.1 h
    omega
  · have hv : x.state.station i = Station.vacantRecord := Table.get_unlisted h
    have := fun h' => h (List.mem_range'_1.2 h')
    simp only [hv, and_true]
    omega

theorem absent_legal : Port.afterReset.Legal :=
  ⟨rfl, by decide, rfl, by decide, by decide, by decide, by decide, by decide, by decide, by decide⟩

theorem busyPort_legal (x : Busy) : x.port.Legal where
  epoch := by cases h : x.asleep <;> simp [Busy.port, h, PortState.live]
  reason := by cases h : x.asleep <;> simp [Busy.port, h]
  resume := by cases h : x.asleep <;> simp [Busy.port, h, Port.afterReset]
  absentHold := by cases h : x.asleep <;> simp [Busy.port, h]
  holdOff := by simp +contextual [Busy.port]
  depth := by cases h : x.full <;> simp [Busy.port, h]
  room := by cases h : x.full <;> simp [Busy.port, h]
  empty := by cases h : x.asleep <;> simp [Busy.port, h, PortState.live]
  budget := by
    show (if x.spent then 0 else 25000) ≤ 100 * 1000 * 25 / 100
    split <;> decide
  sinceUplink := by simp [Busy.port, Port.afterReset]

theorem busy_legal (x : Busy) : x.state.PortsLegal
  | .zero => busyPort_legal x
  | .one => absent_legal

theorem absent_once : Port.afterReset.ListsOnce := ⟨by decide, by decide, by decide, by decide⟩

theorem busy_once (x : Busy) : x.state.ListsOnce
  | .zero => by constructor <;> simp [busy_port, Busy.port]
  | .one => absent_once

theorem busy_rotations (x : Busy) : x.state.RotationsAgree := by
  constructor <;> intro p i <;> rw [busy_port] <;>
    rcases busy_cases x i with rfl | rfl | rfl | rfl | rfl | rfl | rfl | rfl | ⟨h, hv⟩
  all_goals first
    | (rw [hv]; cases p <;> simp [Busy.port, Port.afterReset, Station.vacantRecord]; omega)
    | (rw [busy_station]
       cases p <;> simp [Busy.port, Port.afterReset, station3, station4, station5, station6,
        station7, station8, station9, station10, Station.vacantRecord, Station.hasQueued])

theorem busy_indications (x : Busy) : x.state.IndicationsAgree := by
  intro p i
  rw [busy_port]
  rcases busy_cases x i with rfl | rfl | rfl | rfl | rfl | rfl | rfl | rfl | ⟨h, hv⟩
  all_goals first
    | (rw [hv]; cases p <;> simp [Busy.port, Port.afterReset, Station.vacantRecord]; omega)
    | (rw [busy_station]
       cases p <;> simp [Busy.port, Port.afterReset, station3, station4, station5, station6,
        station7, station8, station9, station10, Station.vacantRecord, Station.hasQueued])

theorem busy_maps (x : Busy) : x.state.MapsAgree := by
  intro p a i
  rw [busy_port]
  have hm : x.port.mapped a = if 7 = a then some 3 else if 8 = a then some 4
      else if 9 = a then some 5 else if 10 = a then some 6 else if 11 = a then some 8
      else if 12 = a then some 7 else if 13 = a then some 9 else if 14 = a then some 10 else none :=
    rfl
  constructor
  · intro h
    cases p
    · rw [if_pos rfl, hm] at h
      have ha : StationState.active ≠ .vacant := by decide
      have hd : StationState.departing ≠ .vacant := by decide
      split_ifs at h <;> cases h <;> subst a <;> first | exact ⟨ha, rfl, rfl⟩ | exact ⟨hd, rfl, rfl⟩
    · cases h
  · rintro ⟨hs, rfl, rfl⟩
    rcases busy_cases x i with rfl | rfl | rfl | rfl | rfl | rfl | rfl | rfl | ⟨h, hv⟩
    all_goals first
      | rfl
      | exact absurd (by rw [hv]; rfl) hs

theorem exists_port {P : PortNo → Prop} : (∃ p, P p) ↔ P .zero ∨ P .one :=
  ⟨fun ⟨p, h⟩ => by cases p <;> simp [h], fun h => h.elim (⟨_, ·⟩) (⟨_, ·⟩)⟩

theorem busy_grants (x : Busy) : x.state.GrantsAgree := by
  constructor
  · intro p; cases p <;> simp [busy_port, Busy.port, Port.afterReset, grant9, window10, grant12]
  · intro p e he i hi
    rw [busy_port] at he
    cases p
    · simp [Busy.port] at he
      rcases he with rfl | rfl | rfl <;>
        simp [InFlight.isDlOf, InFlight.invites, grant9, window10, grant12] at hi
      · subst hi; simp [busy_station, station3, Station.vacantRecord]
      · rcases hi with rfl | rfl <;> simp [busy_station, station4, station7, Station.vacantRecord]
      · subst hi; simp [busy_station, station9, Station.vacantRecord]
    · simp [Port.afterReset] at he
  · intro i
    simp only [exists_port, busy_port, if_true, reduceCtorEq, if_false]
    rcases busy_cases x i with rfl | rfl | rfl | rfl | rfl | rfl | rfl | rfl | ⟨h, hv⟩
    all_goals first
      | (rw [hv]; simp [Station.vacantRecord, Busy.port, Port.afterReset, grant9, window10, grant12,
          InFlight.isDlOf]; omega)
      | (rw [busy_station]
         simp [Station.vacantRecord, station3, station4, station5, station6, station7, station8,
          station9, station10, Busy.port, Port.afterReset, grant9, window10, grant12,
          InFlight.isDlOf])
  · intro i
    simp only [exists_port, busy_port, if_true, reduceCtorEq, if_false]
    rcases busy_cases x i with rfl | rfl | rfl | rfl | rfl | rfl | rfl | rfl | ⟨h, hv⟩
    all_goals first
      | (rw [hv]; simp [Station.vacantRecord, Busy.port, Port.afterReset, grant9, window10, grant12,
          InFlight.invites]; omega)
      | (rw [busy_station]
         simp [Station.vacantRecord, station3, station4, station5, station6, station7, station8,
          station9, station10, Busy.port, Port.afterReset, grant9, window10, grant12,
          InFlight.invites])
  · intro p i
    cases p <;> simp [busy_port, Busy.port, Port.afterReset, grant9, window10, grant12,
      InFlight.isDlOf, List.filter_cons]
    (split_ifs <;> simp); omega
  · intro p i
    cases p <;> simp [busy_port, Busy.port, Port.afterReset, grant9, window10, grant12,
      InFlight.invites, List.filter_cons]
    split_ifs <;> simp
  · intro p; cases p <;> simp [busy_port, Busy.port, Port.afterReset, grant9, window10, grant12,
      InFlight.slots, InFlight.invited]
  · intro p; cases p <;> simp [busy_port, Busy.port, Port.afterReset, grant9, window10, grant12,
      InFlight.invited]

theorem busy_grantSlots (x : Busy) (i : Nat) :
    x.state.grantSlots i = if i = 3 then [0] else if i = 9 then [4] else [] := by
  by_cases h : i = 3
  · subst h; rfl
  · by_cases h' : i = 9
    · subst h'; rfl
    · simp [State.grantSlots, Busy.state, State.reset, Busy.port, Port.afterReset, grant9, window10,
        grant12, InFlight.isDlOf, h, h', Ne.symm h, Ne.symm h']

/-- The slots that the stations of `busy` queue and have on the air. -/
theorem busy_held (x : Busy) : ((List.range 512).flatMap fun i =>
    (x.state.station i).expFifo ++ (x.state.station i).stdFifo ++ x.state.grantSlots i) =
      [1, 0, 2, 3, 4, 5] := by
  have h : ∀ l : List Nat, (∀ i ∈ l, 11 ≤ i) → (l.flatMap fun i =>
      (x.state.station i).expFifo ++ (x.state.station i).stdFifo ++ x.state.grantSlots i) = [] := by
    intro l hl
    rw [List.flatMap_eq_nil_iff]
    intro i hi
    have := hl i hi
    rcases busy_cases x i with rfl | rfl | rfl | rfl | rfl | rfl | rfl | rfl | ⟨-, hv⟩
    iterate 8 omega
    rw [hv, busy_grantSlots, if_neg (by omega), if_neg (by omega)]
    rfl
  have hr : List.range 512 = List.range' 0 11 ++ List.range' 11 501 := by
    rw [List.range_eq_range']; exact (List.range'_append (s := 0) (m := 11) (n := 501)).symm
  rw [hr, List.flatMap_append, h _ (fun i hi => (List.mem_range'_1.1 hi).1)]
  simp [List.range', busy_grantSlots, busy_station, station3, station4, station5, station6, station7,
    station8, station9, station10, Station.vacantRecord]

theorem busy_pool (x : Busy) : x.state.PoolAgrees where
  places := by
    rw [busy_held]
    have hr : List.range 4096 = List.range' 0 6 ++ List.range' 6 4090 := by
      rw [List.range_eq_range']; exact (List.range'_append (s := 0) (m := 6) (n := 4090)).symm
    rw [hr]
    show (List.range' 6 4090 ++ [] ++ [1, 0, 2, 3, 4, 5]).Perm _
    rw [List.append_nil]
    exact List.perm_append_comm.trans (List.Perm.append_right _ (by decide))
  free k hk := .inl (busy_slot x k (by
    exact (List.mem_range'_1.1 (show k ∈ List.range' 6 4090 from hk)).1))
  linked k hk := by
    by_cases h : 6 ≤ k
    · rw [busy_slot x k h] at hk; exact absurd rfl hk
    · have : k = 0 ∨ k = 1 ∨ k = 2 ∨ k = 3 ∨ k = 4 ∨ k = 5 := by omega
      rcases this with rfl | rfl | rfl | rfl | rfl | rfl <;> rfl
  queued i t k hk := by
    rcases busy_cases x i with rfl | rfl | rfl | rfl | rfl | rfl | rfl | rfl | ⟨h, hv⟩
    all_goals first
      | (rw [hv] at hk; cases t <;> cases hk)
      | (rw [busy_station] at hk
         cases t <;> simp [station3, station4, station5, station6, station7, station8, station9,
           station10, Station.vacantRecord, Station.fifo] at hk <;> subst hk <;>
           exact ⟨rfl, rfl, rfl⟩)
  inFlight p e he k hk := by
    rw [busy_port] at he
    cases p
    · simp [Busy.port] at he
      rcases he with rfl | rfl | rfl <;> simp [InFlight.slots, grant9, window10, grant12] at hk <;>
        subst hk <;> exact ⟨rfl, rfl⟩
    · simp [Port.afterReset] at he
  done d hd := by cases hd
  holding i := by
    rw [busy_grantSlots]
    rcases busy_cases x i with rfl | rfl | rfl | rfl | rfl | rfl | rfl | rfl | ⟨h, hv⟩
    all_goals first
      | (rw [hv, if_neg (by omega), if_neg (by omega)]; rfl)
      | (rw [busy_station]; rfl)
  unreported i := by
    rcases busy_cases x i with rfl | rfl | rfl | rfl | rfl | rfl | rfl | rfl | ⟨h, hv⟩
    all_goals first
      | (rw [hv]; rfl)
      | (rw [busy_station]; rfl)

theorem busy_idle (x : Busy) : x.state.IdleAgrees := by
  constructor <;> intro i h <;>
    rcases busy_cases x i with rfl | rfl | rfl | rfl | rfl | rfl | rfl | rfl | ⟨h3, hv⟩
  all_goals first
    | exact hv
    | (rw [hv] at h; simp [Station.vacantRecord] at h)
    | (rw [hv]; rfl)
    | (rw [busy_station] at h ⊢; simp [station3, station4, station5, station6, station7, station8,
        station9, station10, Station.vacantRecord] at h ⊢)
    | omega

theorem busy_books (x : Busy) : x.state.Books :=
  ⟨busy_legal x, busy_once x, busy_rotations x, busy_indications x, busy_maps x, busy_grants x,
    busy_pool x, busy_idle x⟩

/-- Where port 0 is held, full or asleep it has no opportunity. -/
theorem busy_coherent (x : Busy) (h : (x.hold || x.full || x.asleep) = true := by rfl) :
    x.state.Coherent :=
  ⟨busy_books x, fun p => by
    cases p
    · rw [busy_port, if_pos rfl]
      cases h1 : x.hold <;> cases h2 : x.full <;> cases h3 : x.asleep <;>
        simp [Port.hasOpportunity, Busy.port, h1, h2, h3] at h ⊢
    · rfl⟩

/-- Port 0 RUNNING and not held, its table full: a decision follows the end of any entry. -/
def full : State := Busy.state { hold := false, full := true }

/-- Port 0 SUSPENDED and not held: a decision follows a wake cause. -/
def asleep : State := Busy.state { hold := false, asleep := true }

/-! ### A port about to drain -/

/-- Port 0 is DRAINING with one entry in flight: a grant of slot 0 to station 3, or with `ul` a window that
invites it. Station 3 is one attempt short of a window of 16. -/
def lone (ul : Bool) : State := { State.reset with
  init := ⟨false, 0, .resetN⟩, monitor := ⟨16, 12, 2, 4, 50⟩
  stations := [(3, { Station.vacantRecord with
    state := .active, assoc := 7, rateCode := 14, holding := if ul then 0 else 1, dlInFlight := !ul
    ulInFlight := ul, attempts := 15, failures := 11 })]
  slots := if ul then [] else [(0, ⟨.inFlight, 100, 3, .standard, 1500, false, 0, .delivered, true⟩)]
  freeStack := if ul then List.range' 0 4096 else List.range' 1 4095
  port0 := { Port.afterReset with
    state := .draining, depth := 4, nextNumber := 10, epochTimer := some 5, assocMap := [(7, some 3)]
    inFlight := [if ul then ⟨9, 0, 20, .ul [⟨3, 378⟩] 378⟩ else grant9] } }

theorem lone_vacant (ul : Bool) {i : Nat} (h : i ≠ 3) : (lone ul).station i = Station.vacantRecord :=
  Table.get_unlisted fun hi => h (List.mem_singleton.1 hi)

theorem lone_grantSlots (ul : Bool) (i : Nat) :
    (lone ul).grantSlots i = if i = 3 ∧ ul = false then [0] else [] := by
  by_cases h : i = 3
  · subst h; cases ul <;> rfl
  · cases ul <;> simp [State.grantSlots, lone, State.reset, Port.afterReset, grant9, InFlight.isDlOf,
      Ne.symm h, h]

theorem lone_pool (ul : Bool) : (lone ul).PoolAgrees where
  places := by
    have h : ((List.range 512).flatMap fun i => ((lone ul).station i).expFifo ++
        ((lone ul).station i).stdFifo ++ (lone ul).grantSlots i) = if ul then [] else [0] := by
      have hv : ∀ l : List Nat, 3 ∉ l → (l.flatMap fun i => ((lone ul).station i).expFifo ++
          ((lone ul).station i).stdFifo ++ (lone ul).grantSlots i) = [] := fun l hl =>
        List.flatMap_eq_nil_iff.2 fun i hi => by
          have : i ≠ 3 := fun e => hl (e ▸ hi)
          simp [lone_vacant ul this, lone_grantSlots, this, Station.vacantRecord]
      have hr : List.range 512 = List.range' 0 3 ++ 3 :: List.range' 4 508 := by decide +kernel
      rw [hr, List.flatMap_append, List.flatMap_cons, hv _ (by decide), hv _ (by
        simp [List.mem_range'_1]), lone_grantSlots]
      cases ul <;> rfl
    rw [h]
    cases ul
    · have hr : List.range 4096 = 0 :: List.range' 1 4095 := by rw [List.range_eq_range']; rfl
      rw [hr]
      show (List.range' 1 4095 ++ [] ++ [0]).Perm _
      rw [List.append_nil]
      exact List.perm_append_comm
    · rw [List.range_eq_range']
      show (List.range' 0 4096 ++ [] ++ []).Perm _
      rw [List.append_nil, List.append_nil]
  free k hk := by
    refine .inl ?_
    cases ul
    · have := (List.mem_range'_1.1 (show k ∈ List.range' 1 4095 from hk)).1
      exact Table.get_unlisted fun h => by cases List.mem_singleton.1 h; omega
    · rfl
  linked k hk := by
    cases ul
    · by_cases h : k = 0
      · subst h; rfl
      · exact absurd (congrArg Slot.state (Table.get_unlisted fun h' => h (List.mem_singleton.1 h'))) hk
    · exact absurd rfl hk
  queued i t k hk := by
    by_cases h : i = 3
    · subst h; cases ul <;> cases t <;> cases hk
    · rw [lone_vacant ul h] at hk; cases t <;> cases hk
  inFlight p e he k hk := by
    cases p
    · cases List.mem_singleton.1 (show e ∈ [_] from he)
      cases ul
      · cases List.mem_singleton.1 (show k ∈ [0] from hk); exact ⟨rfl, rfl⟩
      · cases hk
    · cases he
  done d hd := by cases hd
  holding i := by
    rw [lone_grantSlots]
    by_cases h : i = 3
    · subst h; cases ul <;> rfl
    · rw [lone_vacant ul h]; simp [h, Station.vacantRecord, Station.queuedCount]
  unreported i := by
    by_cases h : i = 3
    · subst h; cases ul <;> rfl
    · rw [lone_vacant ul h]; rfl

theorem lone_books (ul : Bool) : (lone ul).Books where
  legal p := by
    cases p
    · constructor <;> cases ul <;> decide
    · exact absent_legal
  once p := by
    cases p
    · constructor <;> cases ul <;> decide
    · exact absent_once
  rotations := by
    constructor <;> intro p i <;> by_cases h : i = 3
    all_goals first
      | (subst h; cases p <;> cases ul <;> decide)
      | (rw [lone_vacant ul h]; cases p <;> simp [lone, State.port, State.reset,
          Port.afterReset, Station.vacantRecord])
  indications p i := by
    by_cases h : i = 3
    · subst h; cases p <;> cases ul <;> decide
    · rw [lone_vacant ul h]; cases p <;> simp [lone, State.port, State.reset, Port.afterReset,
        Station.vacantRecord]
  maps p a i := by
    have hm : ((lone ul).port p).mapped a = if p = .zero ∧ a = 7 then some 3 else none := by
      cases p
      · by_cases h : a = 7
        · subst h; rfl
        · simp only [true_and, h, if_false]
          exact Table.get_unlisted fun h' => h (List.mem_singleton.1 h')
      · rfl
    rw [hm]
    by_cases h : i = 3
    · subst h
      rw [show ((lone ul).station 3).state = .active from rfl,
        show ((lone ul).station 3).port = .zero from rfl, show ((lone ul).station 3).assoc = 7 from rfl]
      by_cases hp : p = .zero ∧ a = 7
      · rw [if_pos hp]
        exact ⟨fun _ => ⟨by decide, hp.1.symm, hp.2.symm⟩, fun _ => rfl⟩
      · rw [if_neg hp]
        exact ⟨nofun, fun h => absurd ⟨h.2.1.symm, h.2.2.symm⟩ hp⟩
    · rw [lone_vacant ul h]; split <;> simp [Station.vacantRecord, Ne.symm h]
  grants := by
    have he : ∀ p, ∀ e ∈ ((lone ul).port p).inFlight, p = .zero ∧ e =
        if ul then ⟨9, 0, 20, .ul [⟨3, 378⟩] 378⟩ else grant9 := by
      intro p e h; cases p
      · exact ⟨rfl, List.mem_singleton.1 h⟩
      · cases h
    have hw : ∀ p i, ∀ e ∈ ((lone ul).port p).inFlight,
        (e.isDlOf i = true ↔ i = 3 ∧ ul = false) ∧ (e.invites i = true ↔ i = 3 ∧ ul = true) := by
      intro p i e h
      obtain ⟨rfl, rfl⟩ := he p e h
      cases ul <;> simp [InFlight.isDlOf, InFlight.invites, grant9, eq_comm (a := 3)]
    have hf : ∀ i, (((lone ul).station i).dlInFlight = true ↔ i = 3 ∧ ul = false) ∧
        (((lone ul).station i).ulInFlight = true ↔ i = 3 ∧ ul = true) := by
      intro i
      by_cases h : i = 3
      · subst h; cases ul <;> decide
      · rw [lone_vacant ul h]; simp [Station.vacantRecord, h]
    have hl : ∀ p, ((lone ul).port p).inFlight.length ≤ 1 := fun p => by
      cases p
      · exact Nat.le_refl 1
      · exact Nat.zero_le 1
    have hz : ∃ e, e ∈ ((lone ul).port .zero).inFlight := ⟨_, List.mem_singleton_self _⟩
    constructor
    · intro p; cases p <;> cases ul <;> decide
    · intro p e h i hi
      rw [(hw p i e h).1, (hw p i e h).2] at hi
      obtain ⟨rfl, -⟩ := he p e h
      obtain rfl : i = 3 := by tauto
      exact ⟨nofun, rfl⟩
    · intro i
      rw [(hf i).1]
      exact ⟨fun h => ⟨.zero, hz.imp fun e h' => ⟨h', (hw _ i e h').1.2 h⟩⟩,
        fun ⟨p, e, h', h⟩ => (hw p i e h').1.1 h⟩
    · intro i
      rw [(hf i).2]
      exact ⟨fun h => ⟨.zero, hz.imp fun e h' => ⟨h', (hw _ i e h').2.2 h⟩⟩,
        fun ⟨p, e, h', h⟩ => (hw p i e h').2.1 h⟩
    · exact fun p i => (List.length_filter_le ..).trans (hl p)
    · exact fun p i => (List.length_filter_le ..).trans (hl p)
    · intro p e h; obtain ⟨rfl, rfl⟩ := he p e h; cases ul <;> decide
    · intro p e h; obtain ⟨rfl, rfl⟩ := he p e h; cases ul <;> decide
  pool := lone_pool ul
  idle := by
    constructor
    · intro i hi
      by_cases h : i = 3
      · subst h; cases hi
      · exact lone_vacant ul h
    · intro i hi
      by_cases h : i = 3
      · subst h; cases hi
      · rw [lone_vacant ul h] at hi; cases hi
    · intro i hi; rw [lone_vacant ul (by omega)]; rfl

theorem lone_coherent (ul : Bool) : (lone ul).Coherent :=
  ⟨lone_books ul, fun p => by cases p <;> rfl⟩

/-! ### Ill-formed commands are refused -/

theorem test_wf_frame : ¬ WellFormed (.controlFrameReceived ⟨0, 0, List.replicate 1025 0, 0⟩) := by
  show ¬ (List.replicate 1025 (0 : Byte)).length ≤ 1024
  rw [List.length_replicate]; decide
theorem test_wf_long_is_real : ¬ WellFormed (.frameDiscarded .control (.tooLong 1024)) := by decide
theorem test_wf_check_is_real :
    ¬ WellFormed (.frameDiscarded (.radio .one) (.badCheck (Record.mk 0x56 0 []).frame)) := by
  decide +kernel
theorem test_wf_sync : ¬ WellFormed (.huntByteSkipped .control 0xA5) := by decide
theorem test_wf_results : ¬ WellFormed (.outcome .zero ⟨0, 0, 0, none, List.replicate 256 0⟩) := by
  show ¬ (List.replicate 256 (0 : Byte)).length ≤ 255
  rw [List.length_replicate]; decide
theorem test_wf_entries :
    ¬ WellFormed (.ulOutcome .zero ⟨0, List.replicate 93 ⟨0, 0, 0, none⟩⟩) := by
  show ¬ (List.replicate 93 (⟨0, 0, 0, none⟩ : UlEntry)).length ≤ 92
  rw [List.length_replicate]; decide
theorem test_wf_taken_record : ¬ WellFormed (.radioRecordDiscarded .zero 0x50 [4]) := by decide
theorem test_wf_station : ¬ WellFormed (.serviceDeadline 512) := by decide
theorem test_wf_at_the_bounds : WellFormed (.serviceDeadline 511) ∧
    WellFormed (.frameDiscarded .control (.tooLong 1025)) ∧
    WellFormed (.huntByteSkipped .control 0) ∧ WellFormed (.radioRecordDiscarded .zero 0x50 []) := by
  decide

/-! ### The wire -/

/-- R176: over the nine ASCII bytes "123456789" the check sequence is 0x29B1. -/
theorem test_crc : crc [0x31, 0x32, 0x33, 0x34, 0x35, 0x36, 0x37, 0x38, 0x39] = 0x29B1#16 := by
  decide +kernel

/-- R176: sync, type, length low byte first, tag, body. -/
theorem test_frame_order :
    (frameBytes ⟨0x13, 5, [0x02, 0x01]⟩).take 7 = [0xA5, 0x13, 0x02, 0x00, 0x05, 0x02, 0x01] := by
  decide

/-- Section 10.5: an OUTCOME of grant 9, actual 0x0102, code 14, demand 0x010203, two results. -/
theorem test_outcome_layout : decodeRadio .zero 0x51 [9, 0x02, 0x01, 14, 1, 0x03, 0x02, 0x01, 2, 0, 2] =
    .outcome .zero ⟨9, 0x0102, 14, some 0x010203, [0, 2]⟩ := by decide

/-- Section 10.5: ADMIT of station 258 to port 1 under number 772. -/
theorem test_admit_layout : parseAdmit [2, 1, 1, 4, 3, 5, 0, 14, 64, 0, 8] =
    some ⟨258, 1, 772, 5, 0, 14, 64, 8⟩ := by decide

/-- R178: a record of the wrong length, or of a type the radio does not send, is discarded. -/
theorem test_discarded_layouts : decodeRadio .one 0x55 [] = .radioRecordDiscarded .one 0x55 [] ∧
    decodeRadio .one 0x40 [0] = .radioRecordDiscarded .one 0x40 [0] := by decide

/-! ### The manual's worked figures -/

/-- R45: its table, and the ends of the ranges it names. -/
theorem test_aggregate_rounding : [0, 1, 2, 3, 5, 7, 12, 63, 64, 65, 255].map roundAggLimit =
    [64, 1, 2, 2, 4, 4, 8, 32, 64, 64, 64] := by decide

/-- Section 3.4, remapping: codes 3, 9, 14, 20 enabled. -/
theorem test_remapping :
    let q : Port := { Port.afterReset with
      rates := [3, 9, 14, 20].map fun c => (c, ⟨12, 0, 0, true⟩) };
    [14, 17, 2, 25, 9].map q.effectiveCode = [some 14, some 14, some 3, some 20, some 9] := by decide

/-- Section 3.5: 412, 886, 2259 and 4310 µs, and the floor and the ceiling. -/
theorem test_estimates :
    dlEstimate ⟨1040, 120, 38, true⟩ 2 (List.replicate 12 1500) = 412 ∧
    dlEstimate ⟨1040, 120, 38, true⟩ 2 (List.replicate 32 1500) = 886 ∧
    dlEstimate ⟨12, 200, 38, true⟩ 2 [1500] = 2259 ∧
    dlEstimate ⟨12, 200, 38, true⟩ 2 [1500, 1500] = 4310 ∧
    dlEstimate ⟨4800, 0, 0, true⟩ (-7) [1] = 1 ∧
    dlEstimate ⟨2, 0, 255, true⟩ 0 [8000] = 65535 := by decide +kernel

/-- Section 3.7: 378, 458, 192 and 378 µs. -/
theorem test_allotments :
    ulAllotment ⟨1040, 120, 38, true⟩ 2 2000 30000 = 378 ∧
    ulAllotment ⟨12, 200, 38, true⟩ 2 2000 1000 = 458 ∧
    ulAllotment ⟨1040, 120, 38, true⟩ 2 2000 40 = 192 ∧
    ulAllotment ⟨1040, 120, 38, true⟩ 2 2000 90000 = 378 := by decide +kernel

/-- R58: its table. -/
theorem test_quanta : let m := MonitorSettings.defaults;
    quantum 4000 16 m .healthy = 4000 ∧ quantum 4000 32 m .healthy = 8000 ∧
    quantum 4000 1 m .healthy = 250 ∧ quantum 4000 16 m .degraded = 2000 ∧
    quantum 500 1 { m with percent := 25 } .degraded = 7 ∧
    quantum 20000 64 m .healthy = 80000 := by decide

/-- R173: its table. -/
theorem test_monitor_settings :
    clampMonitor ⟨10, 40, 8, 4, 50⟩ = ⟨16, 16, 8, 4, 50⟩ ∧
    clampMonitor ⟨300, 0, 50, 0, 10⟩ = ⟨255, 1, 0, 1, 25⟩ ∧
    clampMonitor ⟨32, 40, 32, 80, 100⟩ = ⟨32, 32, 31, 64, 100⟩ := by decide

/-- Section 10.5: after its code a QUERY_STATION reply has 45 bytes and a STATUS reply 209. -/
theorem test_report_lengths : (∀ r : StationReport, r.bytes.length = 45) ∧
    ∀ r : StatusReport, r.weights.length = 8 → r.bytes.length = 209 := by
  have hw : ∀ ws : List Nat, (encodeWeights ws).length = ws.length := fun ws => by
    simp [encodeWeights, Laws.BodyBound.toLe_length]
  have he : ∀ es, (entryRecords es).length = 12 := fun es => by simp [entryRecords]
  refine ⟨fun r => ?_, fun r hr => ?_⟩
  · unfold StationReport.bytes
    simp only [balanceBytes, List.length_append, List.length_cons, List.length_nil,
      Laws.BodyBound.toLe_length]
  · unfold StatusReport.bytes PortReport.bytes
    simp only [encodeParams, encodeLifetimes, encodeMonitor, List.length_append, List.length_cons,
      List.length_nil, Laws.BodyBound.toLe_length, hw, he, hr]

/-! ### Commands -/

def after (c : Instr) (s : State) : State :=
  match exec c s with
  | .next t => t
  | .fault _ | .refused _ => s

/-- The code of the reply to a request of `busy`. -/
def codeOf (c : Instr) (type : Byte) (body : List Byte) : Option ReplyCode :=
  (after c (waiting type body)).cli.reply.map Reply.code

/-- A request of `busy` waits, whatever its type and body. -/
theorem test_meets_Waits (type : Byte) (body : List Byte) :
    (waiting type body).Waits type 7 body := ⟨rfl, rfl, rfl⟩

/-- `busy` with port 0 changed and a request waiting. -/
def onPort (type : Byte) (body : List Byte) (f : Port → Port) : State :=
  (waiting type body).modPort .zero f

/-- `busy` with station 3 changed and a request waiting. -/
def onStation (type : Byte) (body : List Byte) (f : Station → Station) : State :=
  (waiting type body).modStation 3 f

/-! #### The queue, the time base, the wire -/

theorem test_meets_StepTakesTheFrontCommand :
    ({ busy with pending := [.badType, .replySent] } : State).pending = .badType :: [.replySent] :=
  rfl

/-- A step on a waiting command takes it and leaves the rest waiting. -/
theorem test_step_takes_front : ∃ t, step { busy with pending := [.resetPart, .badType] } = .next t ∧
    t.pending = [.badType] := ⟨_, rfl, rfl⟩

theorem test_meets_IdleStepLetsOneMicrosecondPass : busy.pending = [] ∧
    ¬ 999 ≤ ({ busy with clock := ⟨7, 998, 3⟩ } : State).clock.usInMs ∧
    999 ≤ ({ busy with clock := ⟨7, 999, 3⟩ } : State).clock.usInMs := by decide +kernel

/-- 00_scope: millisecond ticks are derived from the microsecond count. -/
theorem test_tick_millisecond : ({ busy with clock := ⟨7, 999, 3⟩ } : State).tick.clock = ⟨8, 0, 4⟩ :=
  rfl

theorem test_meets_DueTimerEventsJoinTheQueue : busy.pending = [] ∧ ∃ t, step busy = .next t :=
  ⟨rfl, _, rfl⟩

theorem test_meets_RequestBodiesReadBack :
    ConfigureReq.fits ⟨255, ⟨65535, 0, 65535, 255, -128, 65535, 255, 255, 65535, 255, 255, 65535, 255⟩⟩ ∧
    LoadRatesReq.fits ⟨255, 255, List.replicate 31 ⟨65535, 65535, 65535, true⟩⟩ ∧
    MonitorSettings.fits ⟨65535, 65535, 65535, 255, 255⟩ ∧ Lifetimes.fits ⟨65535, 65535, 65535⟩ ∧
    AdmitReq.fits ⟨65535, 255, 65535, 255, 255, 255, 65535, 255⟩ ∧
    UpdateReq.fits ⟨65535, true, true, true, true, 255, 255, 65535, 255⟩ ∧
    EnqueueReq.fits ⟨65535, List.replicate 16 ⟨0xFFFFFFFF, 65535, .standard, true⟩⟩ ∧
    FlushReq.fits ⟨65535, .both⟩ := by decide +kernel

theorem test_meets_RadioRecordsReadBack : WellFormed (.psEventDiscarded .one 0x3FF 3) ∧
    radioOf (.psEventDiscarded .one 0x3FF 3) = some .one ∧ 2 < (3 : Byte).toNat ∧
    encodeRadio (.psEventDiscarded .one 0x3FF 3) = some (0x54, [0xFF, 0x03, 3]) := by decide

theorem test_meets_AlteredFrameIsCountedNotTaken :
    (Record.mk 0x13 5 [2, 1]).frame.intact = true ∧
    ∃ old, (Record.mk 0x13 5 [2, 1]).frame.body[0]? = some old ∧ old ≠ 3 :=
  ⟨by decide +kernel, 2, rfl, by decide⟩

/-- A control frame received with a byte altered is counted and not queued. -/
theorem test_altered_frame : let f := (Record.mk 0x13 5 [2, 1]).frame;
    let t := after (.controlFrameReceived { f with body := [2, 3] }) busy;
    t.cli.badFrames = 1 ∧ t.cli.inbound = [] := by decide +kernel

theorem test_meets_ReceivedRecordJoinsTheInboundQueue :
    (Record.mk 0x13 5 [2, 1]).frame.intact = true ∧
    ({ ControlLink.afterReset with inbound := List.replicate 3 ⟨0, 0, []⟩ }).inbound.length < 4 ∧
    4 ≤ ({ ControlLink.afterReset with inbound := List.replicate 4 ⟨0, 0, []⟩ }).inbound.length := by
  decide +kernel

/-- R179: a record that arrives behind four is an overrun. -/
theorem test_overrun :
    let t := after (.controlFrameReceived (Record.mk 0x13 5 [2, 1]).frame)
      (busyWith { ControlLink.afterReset with inbound := List.replicate 4 ⟨0, 0, []⟩ } 0 0);
    t.cli.overruns = 1 ∧ t.cli.inbound.length = 4 := by decide +kernel

theorem test_meets_DamageAndHuntingAreCountedPerLink :
    (Damage.tooLong 1025).real = true ∧ (Damage.badCheck ⟨0, 0, [], 0⟩).real = true ∧
    (0xA4 : Byte) ≠ 0xA5 := by decide +kernel

/-- `busy` with two notices queued. -/
def noted (reply : Option Reply) (sending : Option Sending) : State := busyWith
  { ControlLink.afterReset with
    notices := [⟨false, .ready .resetN⟩, ⟨true, .departDone 4⟩], reply, sending } 0 0

/-- R177: two bytes skipped in one hunt are counted once, and a damaged frame begins a new hunt. -/
theorem test_hunt :
    let s := after (.huntByteSkipped (.radio .one) 1)
      (after (.huntByteSkipped (.radio .one) 0) busy);
    s.port1.badFrames = 1 ∧ (after (.huntByteSkipped (.radio .one) 0)
      (after (.frameDiscarded (.radio .one) (.tooLong 1025)) s)).port1.badFrames = 3 := by
  decide +kernel

theorem test_cs_n_raised : (after .csNRaisedMidFrame busy).cli.badFrames = 1 := by decide +kernel

/-- R180: a filler byte begins the notice it carries out, and a reply formed after it waits for the notice. -/
theorem test_hunt_byte_begins_notice :
    let s := (after (.huntByteSkipped .control 0) (noted none none)).putReply 0x91 7 .ok .nothing;
    s.cli.sending = some ⟨.notice, 1⟩ ∧ (after .replySent s).cli.reply.isSome = true ∧
    (after .noticeSent s).cli.notices = [⟨true, .departDone 4⟩] := by decide +kernel

/-- R180: so do the bytes of a frame, taken or discarded, however many of them are clocked at its end. -/
theorem test_frame_begins_notice : let begun (c : Instr) :=
      (after c (noted none none)).cli.sending.map Sending.what;
    begun (.controlFrameReceived (Record.mk 0x13 5 [2, 1]).frame) = some .notice ∧
    begun (.frameDiscarded .control (.tooLong 1025)) = some .notice := by decide +kernel

theorem test_meets_UnknownTypeIsAnsweredBadType :
    (waiting 0x08 []).cli.inbound = ⟨0x08, 7, []⟩ :: [] ∧ (waiting 0x08 []).cli.reply = none ∧
    (0x08 : Byte) ∉ requestTypes := by decide +kernel

/-- R178, R181: the reply to an unknown type has type 0xFF, the request's tag and code 2. -/
theorem test_bad_type : (after .badType (waiting 0x08 [])).cli.reply.map (Reply.record) =
    some ⟨0xFF, 7, [2]⟩ := by decide +kernel

theorem test_meets_ReplySentPopsTheHeadRequest : let r : Reply := ⟨0x91, 7, .ok, .nothing⟩;
    let s (x : Option Sending) := busyWith { ControlLink.afterReset with reply := some r, sending := x } 0 0;
    (s none).cli.reply = some r ∧ ¬ (r.type = 0xB1 ∧ r.code = .ok) ∧ (s none).cli.sending = none ∧
    (s (some ⟨.reply, 3⟩)).cli.sending = some ⟨.reply, 3⟩ ∧ busy.cli.reply = none ∧
    (s (some ⟨.notice, 3⟩)).cli.sending = some ⟨.notice, 3⟩ := by decide +kernel

/-- R179: the head record leaves with its reply, and the next stands at the head. -/
theorem test_reply_sent :
    let t := after .replySent { busy with cli := { ControlLink.afterReset with
      inbound := [⟨0x11, 7, []⟩, ⟨0x30, 8, []⟩], reply := some ⟨0x91, 7, .badRecord, .nothing⟩ } };
    t.cli.inbound = [⟨0x30, 8, []⟩] ∧ t.cli.reply = none := by decide +kernel

theorem test_meets_NoticesLeaveOldestFirst : let r : Reply := ⟨0x91, 7, .ok, .nothing⟩;
    (noted none none).cli.notices = ⟨false, .ready .resetN⟩ :: [⟨true, .departDone 4⟩] ∧
    (noted none none).cli.reply = none ∧ (noted none none).cli.sending = none ∧
    (noted none none).done.length < 16 ∧ (noted none none).coalTimer ≠ .expired ∧
    (noted (some r) (some ⟨.notice, 2⟩)).cli.sending = some ⟨.notice, 2⟩ ∧
    (noted (some r) none).cli.reply ≠ none ∧
    (noted (some r) (some ⟨.reply, 2⟩)).cli.sending = some ⟨.reply, 2⟩ ∧ busy.cli.notices = [] := by
  decide +kernel

/-- R180: a notice partly clocked out when a reply is formed goes to its end before the reply. -/
theorem test_notice_sent : (after .noticeSent (noted none none)).cli.notices = [⟨true, .departDone 4⟩] ∧
    let s := noted (some ⟨0x91, 7, .ok, .nothing⟩) (some ⟨.notice, 2⟩);
    (after .replySent s).cli.reply.isSome = true ∧
    (after .noticeSent s).cli.notices = [⟨true, .departDone 4⟩] := by decide +kernel

/-- R180: idle MISO is 0x00; READY's frame begins 0xA5, 0xC4, 0x02; clocking stops at its last byte. -/
theorem test_miso : busy.cli.misoByte = 0 ∧ (noted none none).cli.misoByte = 0xA5 ∧
    ((noted none none).cli.clockOut 2).misoByte = 0x02 ∧
    ((noted none none).cli.clockOut 99).bytesGone = 8 := by decide +kernel

/-! #### Resets and initialization -/

/-- The reply to a RESET_PART waits. -/
def resetAnswered : State := { busy with
  cli := { ControlLink.afterReset with reply := some ⟨0xB1, 7, .ok, .nothing⟩ } }

theorem test_meets_ResetVacatesEveryStation :
    resetAnswered.cli.reply = some ⟨0xB1, 7, .ok, .nothing⟩ ∧ resetAnswered.cli.sending = none :=
  ⟨rfl, rfl⟩
theorem test_meets_ResetsLeaveTheResetValues :
    resetAnswered.cli.reply = some ⟨0xB1, 7, .ok, .nothing⟩ ∧ resetAnswered.cli.sending = none :=
  ⟨rfl, rfl⟩
theorem test_meets_ResetPartIsAnsweredFirst : (waiting 0x31 []).Waits 0x31 7 [] ∧
    (waiting 0x31 [0]).Waits 0x31 7 [0] := ⟨⟨rfl, rfl, rfl⟩, ⟨rfl, rfl, rfl⟩⟩

theorem test_reset_n : let t := after .resetN (noted none none);
    t.init = ⟨true, 1000, .resetN⟩ ∧ (t.station 3).state = .vacant ∧ t.port0.state = .absent ∧
    t.rdy = true ∧ (noted none none).attn = true ∧ (noted none none).assertReset.rdy = false := by
  decide +kernel
theorem test_reset_part : codeOf .resetPart 0x31 [] = some .ok ∧
    codeOf .resetPart 0x31 [0] = some .badRecord := by decide +kernel
theorem test_reset_part_takes_effect :
    (after .resetPartTakesEffect resetAnswered).init = ⟨true, 1000, .resetPart⟩ ∧
    (after .resetPartTakesEffect busy).init.active = false := by decide +kernel

theorem test_meets_InitializationEndsWithReadyAndAnnounce : State.reset.init.active = true := rfl

/-- R186, R108: READY with cause 0 in an empty queue, and an ANNOUNCE with each port's number. -/
theorem test_initialization_complete : let t := after .initializationComplete State.reset;
    t.cli.notices.map (Notice.record) = [⟨0xC4, 0, [0, 0]⟩] ∧
    t.port1.outbound.map (RadioRecord.record) = [⟨0x40, 0, [1]⟩] := by decide +kernel

/-- State.reset with a request waiting. -/
def early (type : Byte) (body : List Byte) : State := { State.reset with
  cli := { ControlLink.afterReset with inbound := [⟨type, 7, body⟩] } }

theorem test_meets_RequestsDuringInitializationAreNotReady : (.enqueue, 0x20) ∈ requests ∧
    Instr.enqueue ≠ .status ∧ (early 0x20 []).init.active = true ∧
    (early 0x20 []).cli.reply = none ∧ (early 0x20 []).cli.inbound = ⟨0x20, 7, []⟩ :: [] := by
  decide +kernel

theorem test_not_ready : (after .enqueue (early 0x20 [])).cli.reply.map (Reply.record) =
    some ⟨0xA0, 7, [15, 0, 15]⟩ := by decide +kernel

theorem test_meets_RadioRecordsDuringInitializationHaveNoEffect :
    radioOf (.hello .zero 4) = some .zero ∧ State.reset.init.active = true := by decide

/-! #### Settings and port control -/

theorem test_meets_ConfigurePortStoresThirteenClampedValues :
    codeOf .configurePort 0x01 [] = some .badRecord ∧
    codeOf .configurePort 0x01 (encodeConfigure ⟨2, PortParams.defaults⟩) = some .badRecord ∧
    codeOf .configurePort 0x01 (encodeConfigure ⟨0, PortParams.defaults⟩) = some .portState ∧
    codeOf .configurePort 0x01 (encodeConfigure ⟨1, PortParams.defaults⟩) = some .ok := by
  decide +kernel

/-- R111, R45: values below and above their ranges. -/
theorem test_configure :
    let t := after .configurePort (waiting 0x01 (encodeConfigure
      ⟨1, ⟨0, 65535, 99, 3, -8, 9, 101, 16, 199, 0, 1, 2001, 4⟩⟩));
    t.port1.params = ⟨500, 20000, 100, 2, -7, 10, 100, 15, 200, 1, 2, 2000, 5⟩ ∧
    t.port1.budget = 10000 := by decide +kernel

theorem test_meets_LoadRatesWritesConsecutiveCodes :
    codeOf .loadRates 0x02 [0, 1] = some .badRecord ∧
    codeOf .loadRates 0x02 [0, 1, 0] = some .badRecord ∧
    codeOf .loadRates 0x02 (encodeLoadRates ⟨2, 1, [⟨2, 0, 0, true⟩]⟩) = some .badRecord ∧
    codeOf .loadRates 0x02 (encodeLoadRates ⟨0, 32, [⟨2, 0, 0, true⟩]⟩) = some .badRecord ∧
    codeOf .loadRates 0x02 (encodeLoadRates ⟨0, 31, [⟨2, 0, 0, true⟩]⟩) = some .ok ∧
    (onPort 0x02 (encodeLoadRates ⟨0, 31, [⟨2, 0, 0, true⟩]⟩) fun q =>
      { q with state := .suspended, hold := false }).Waits 0x02 7
        (encodeLoadRates ⟨0, 31, [⟨2, 0, 0, true⟩]⟩) :=
  ⟨by decide +kernel, by decide +kernel, by decide +kernel, by decide +kernel, by decide +kernel,
    rfl, rfl, rfl⟩

theorem test_load_rates :
    let t := after .loadRates
      (waiting 0x02 (encodeLoadRates ⟨0, 13, [⟨1, 1024, 256, true⟩, ⟨5000, 0, 0, false⟩]⟩));
    t.port0.rate 13 = ⟨2, 1023, 255, true⟩ ∧ t.port0.rate 14 = ⟨4800, 0, 0, false⟩ ∧
    t.port0.rate 3 = ⟨12, 200, 38, true⟩ ∧
    t.cli.reply.map Reply.fields = some (.enabledCodes 2) := by decide +kernel

theorem test_meets_SharedSettingsAreStoredClamped :
    codeOf .setWeights 0x03 [0] = some .badRecord ∧
    codeOf .setWeights 0x03 (encodeWeights [0, 1, 2, 3, 4, 5, 64, 65]) = some .ok ∧
    codeOf .setMonitor 0x04 [] = some .badRecord ∧
    codeOf .setMonitor 0x04 (encodeMonitor MonitorSettings.defaults) = some .ok := by decide +kernel

theorem test_set_weights :
    let t := after .setWeights
      (waiting 0x03 (encodeWeights [0, 1, 16, 3, 4, 5, 64, 65]));
    (List.range 8).map t.weight = [1, 1, 16, 3, 4, 5, 64, 64] := by decide +kernel

theorem test_set_monitor : (after .setMonitor (waiting 0x04 (encodeMonitor ⟨32, 40, 32, 80, 100⟩))).monitor =
    ⟨32, 32, 31, 64, 100⟩ := by decide +kernel

/-- `busy` with slot 9 finished 30 µs ago and a request waiting. -/
def finished (type : Byte) (body : List Byte) : State := { waiting type body with
  done := [⟨9, 20⟩], coalTimer := .running }

theorem test_meets_SetLifetimesStoresClampedAndRetimes :
    codeOf .setLifetimes 0x05 [] = some .badRecord ∧
    (waiting 0x05 (encodeLifetimes ⟨1, 2, 30⟩)).done = [] ∧
    (finished 0x05 (encodeLifetimes ⟨1, 2, 31⟩)).done = ⟨9, 20⟩ :: [] ∧
    (finished 0x05 (encodeLifetimes ⟨1, 2, 31⟩)).done.length < 16 ∧
    ((50 : Word) - 20).toNat < (⟨1, 2, 31⟩ : Lifetimes).coalescing ∧
    ¬ ((50 : Word) - 20).toNat < (⟨1, 2, 30⟩ : Lifetimes).coalescing ∧
    ((finished 0x05 (encodeLifetimes ⟨1, 2, 30⟩)).done.map DoneEntry.slot).Nodup ∧
    (finished 0x05 (encodeLifetimes ⟨1, 2, 31⟩)).Waits 0x05 7 (encodeLifetimes ⟨1, 2, 31⟩) :=
  ⟨by decide +kernel, rfl, rfl, by decide +kernel, by decide, by decide, by decide, rfl, rfl, rfl⟩

/-- R34, R146, R147: clamped, and a lowered coalescing time reports the waiting slot at once. -/
theorem test_set_lifetimes : let t := after .setLifetimes (finished 0x05 (encodeLifetimes ⟨30001, 0, 30⟩));
    t.lifetimes = ⟨30000, 0, 30⟩ ∧ t.done = [] ∧ t.cli.notices.length = 1 := by decide +kernel

theorem test_meets_StartPortRunsThePort :
    codeOf .startPort 0x06 [] = some .badRecord ∧ codeOf .startPort 0x06 [2] = some .badRecord ∧
    codeOf .startPort 0x06 [1] = some .portAbsent ∧ codeOf .startPort 0x06 [0] = some .ok ∧
    ((after .startPort (onPort 0x06 [0] fun q => { q with state := .stopped, rates := [] })).cli.reply.map
      Reply.code) = some .noRates ∧
    (onPort 0x06 [0] fun q => { q with state := .suspended, hold := false }).Waits 0x06 7 [0] ∧
    (onPort 0x06 [0] fun q => { q with state := .stopped, hold := false }).Waits 0x06 7 [0] ∧
    (onPort 0x06 [0] fun q => { q with state := .draining, hold := false }).Waits 0x06 7 [0] ∧
    ((onPort 0x06 [0] fun q => { q with state := .draining, hold := false }).port0.rate 3).enabled = true :=
  ⟨by decide +kernel, by decide +kernel, by decide +kernel, by decide +kernel, by decide +kernel,
    ⟨rfl, rfl, rfl⟩, ⟨rfl, rfl, rfl⟩, ⟨rfl, rfl, rfl⟩, by decide +kernel⟩

/-- R113, R84, R164: from STOPPED, a full budget and the whole set sent again. -/
theorem test_start_port :
    let t := after .startPort
      (onPort 0x06 [0] fun q => { q with state := .stopped, budget := 0, epochTimer := none });
    t.port0.state = .running ∧ t.port0.budget = 25000 ∧ t.port0.epochTimer = some 100 ∧
    t.port0.outbound = [.timUpdate .clear 0, .timUpdate .add 9, .timUpdate .add 11] := by
  decide +kernel

theorem test_meets_StopPortStopsOrDrains :
    codeOf .stopPort 0x07 [] = some .badRecord ∧ codeOf .stopPort 0x07 [2] = some .badRecord ∧
    codeOf .stopPort 0x07 [1] = some .portAbsent ∧ codeOf .stopPort 0x07 [0] = some .ok ∧
    (onPort 0x07 [0] fun q => { q with state := .stopped }).Waits 0x07 7 [0] ∧
    (onPort 0x07 [0] fun q => { q with state := .suspended, inFlight := [] }).Waits 0x07 7 [0] :=
  ⟨by decide +kernel, by decide +kernel, by decide +kernel, by decide +kernel, ⟨rfl, rfl, rfl⟩,
    ⟨rfl, rfl, rfl⟩⟩

/-- R114: with grants in flight the port drains and its epoch timer runs on. -/
theorem test_stop_port : let t := after .stopPort (waiting 0x07 [0]);
    t.port0.state = .draining ∧ t.port0.epochTimer = some 0 ∧
    t.cli.reply.map Reply.fields = some (.portState .draining) := by decide +kernel

/-! #### Stations -/

theorem test_meets_AdmitChecksInOrderAndBinds :
    codeOf .admitStation 0x10 [] = some .badRecord ∧
    codeOf .admitStation 0x10 (encodeAdmit ⟨512, 0, 1, 0, 0, 1, 64, 8⟩) = some .badStation ∧
    codeOf .admitStation 0x10 (encodeAdmit ⟨511, 2, 1, 0, 0, 1, 64, 8⟩) = some .badRecord ∧
    codeOf .admitStation 0x10 (encodeAdmit ⟨511, 0, 1024, 0, 0, 1, 64, 8⟩) = some .badRecord ∧
    codeOf .admitStation 0x10 (encodeAdmit ⟨3, 0, 1023, 0, 0, 1, 64, 8⟩) = some .notVacant ∧
    codeOf .admitStation 0x10 (encodeAdmit ⟨511, 1, 1023, 0, 0, 1, 64, 8⟩) = some .portAbsent ∧
    codeOf .admitStation 0x10 (encodeAdmit ⟨511, 0, 7, 0, 0, 1, 64, 8⟩) = some .duplicateAssoc ∧
    codeOf .admitStation 0x10 (encodeAdmit ⟨511, 0, 1023, 0, 0, 1, 64, 8⟩) = some .ok := by
  decide +kernel

/-- R6, R7: clamped fields, and the map entry. -/
theorem test_admit :
    let t := after .admitStation
      (waiting 0x10 (encodeAdmit ⟨511, 0, 1023, 9, 40, 0, 300, 0⟩));
    t.station 511 = { Station.vacantRecord with
      state := .active, assoc := 1023, cls := 7, rateMode := 31, rateCode := 1, queueCap := 256,
      frameLimit := 1 } ∧ t.port0.mapped 1023 = some 511 := by decide +kernel

theorem test_meets_UpdateWritesTheMaskedFields :
    codeOf .update 0x11 [] = some .badRecord ∧
    codeOf .update 0x11 (encodeUpdate ⟨512, true, true, true, true, 0, 0, 8, 1⟩) = some .badStation ∧
    codeOf .update 0x11 (encodeUpdate ⟨511, true, true, true, true, 0, 0, 8, 1⟩) = some .notAdmitted ∧
    ((after .update (onStation 0x11 (encodeUpdate ⟨3, true, true, true, true, 0, 0, 8, 1⟩) fun r =>
      { r with state := .departing })).cli.reply.map Reply.code) = some .departing ∧
    codeOf .update 0x11 (encodeUpdate ⟨3, true, true, true, true, 0, 0, 8, 1⟩) = some .ok := by
  decide +kernel

/-- R8, R10: only the masked fields, and the queue cap not below the holding. -/
theorem test_update :
    let t := after .update (onStation 0x11
      (encodeUpdate ⟨3, true, false, true, false, 5, 5, 8, 5⟩) fun r => { r with holding := 20 });
    (t.station 3).cls = 5 ∧ (t.station 3).rateMode = 0 ∧ (t.station 3).queueCap = 20 ∧
    (t.station 3).frameLimit = 8 := by decide +kernel

theorem test_meets_DepartIsTakenForActiveStationsOnly :
    codeOf .depart 0x12 [3] = some .badRecord ∧ codeOf .depart 0x12 [0, 2] = some .badStation ∧
    codeOf .depart 0x12 [255, 1] = some .notAdmitted ∧
    ((after .depart (onStation 0x12 [3, 0] fun r => { r with state := .departing })).cli.reply.map
      Reply.code) = some .departing ∧
    codeOf .depart 0x12 [3, 0] = some .ok := by decide +kernel

theorem test_meets_DepartEndsTheStationsPart : (6 : Nat) ≤ 511 ∧
    (waiting 0x12 (toLe 2 6)).Waits 0x12 7 (toLe 2 6) ∧
    ((waiting 0x12 (toLe 2 6)).station 6).state = .active ∧
    (waiting 0x12 (toLe 2 6)).Quiet ((waiting 0x12 (toLe 2 6)).station 6).queuedCount ∧
    (waiting 0x12 (toLe 2 3)).Quiet ((waiting 0x12 (toLe 2 3)).station 3).queuedCount ∧
    (waiting 0x12 (toLe 2 6)).Coherent :=
  ⟨by decide, ⟨rfl, rfl, rfl⟩, by decide +kernel,
    ⟨by decide +kernel, by decide +kernel, by decide +kernel⟩,
    ⟨by decide +kernel, by decide +kernel, by decide +kernel⟩, busy_coherent { cli := _ }⟩

/-- `busy` with no coalescing time and a record waiting: each frame that ends is reported at once. -/
def prompt (type : Byte) (body : List Byte) : State := Busy.state
  { cli := { ControlLink.afterReset with inbound := [⟨type, 7, body⟩] }, lifetimes := ⟨100, 2000, 0⟩ }

/-- R13, R16: station 3 keeps its grant in flight, station 6 departs at once, and station 10 with the
COMPLETION of its one frame. -/
theorem test_depart : (after .depart (waiting 0x12 [3, 0])).station 3 = { station3 with
      state := .departing, stdFifo := [], holding := 1, unreported := 1, dlBalance := 0, demand := 0 } ∧
    (after .depart (waiting 0x12 [6, 0])).station 6 = Station.vacantRecord ∧
    (after .depart (waiting 0x12 [6, 0])).cli.notices = [⟨false, .departDone 6⟩] ∧
    (after .depart (prompt 0x12 [10, 0])).cli.notices =
      [⟨false, .completion [⟨105, 10, .flushed⟩]⟩, ⟨false, .departDone 10⟩] := by decide +kernel

theorem test_meets_QueryReportsTheWholeRecord :
    codeOf .queryStation 0x13 [3] = some .badRecord ∧ codeOf .queryStation 0x13 [0, 2] = some .badStation ∧
    codeOf .queryStation 0x13 [255, 1] = some .ok ∧ codeOf .queryStation 0x13 [3, 0] = some .ok := by
  decide +kernel

/-- R19: station 8's report in SERVICE, its deadline passed. -/
theorem test_query : (busy.stationReport 8).inMain = true ∧ (busy.stationReport 8).inUplink = false ∧
    (busy.stationReport 8).effectiveCode = 3 ∧ (busy.stationReport 8).timeToDeadline = 0 ∧
    (busy.stationReport 511).effectiveCode = 0 := by decide +kernel

/-! #### Descriptors and STATUS -/

def frame (length : Nat) : Descriptor := ⟨0xCAFE, length, .expedited, false⟩

theorem test_meets_EnqueueChecksAndCountsInOrder :
    codeOf .enqueue 0x20 [3, 0] = some .badRecord ∧ codeOf .enqueue 0x20 [3, 0, 0] = some .badRecord ∧
    codeOf .enqueue 0x20 (encodeEnqueue ⟨512, [frame 1]⟩) = some .badStation ∧
    codeOf .enqueue 0x20 (encodeEnqueue ⟨511, [frame 1]⟩) = some .notAdmitted ∧
    ((after .enqueue (onStation 0x20 (encodeEnqueue ⟨3, [frame 1]⟩) fun r =>
      { r with state := .departing })).cli.reply.map Reply.code) = some .departing ∧
    codeOf .enqueue 0x20 (encodeEnqueue ⟨3, [frame 8000]⟩) = some .ok ∧
    codeOf .enqueue 0x20 (encodeEnqueue ⟨3, [frame 8001]⟩) = some .badFrameLength := by
  decide +kernel

/-- R27, R29: two of three entries pass, the third has length 0. -/
theorem test_enqueue_partial :
    let t := after .enqueue
      (waiting 0x20 (encodeEnqueue ⟨3, [frame 1, frame 8000, frame 0]⟩));
    t.cli.reply = some ⟨0xA0, 7, .partialAccepted, .enqueue 2 .badFrameLength⟩ ∧
    (t.station 3).expFifo = [6, 7] ∧ (t.station 3).holding = 4 ∧ t.port0.expRot = [10, 3] := by
  decide +kernel

/-- Two entries that are accepted and one that is not, for station 3, which is AWAKE. -/
theorem test_meets_EnqueueQueuesTheFrame :
    let es : List Descriptor := [frame 8000, ⟨1, 1, .standard, true⟩, frame 0];
    let s := Busy.state { hold := false, asleep := true, cli := { ControlLink.afterReset with
      inbound := [⟨0x20, 7, encodeEnqueue ⟨3, es⟩⟩] } };
    let fits (j : Nat) (d : Descriptor) : Prop := 1 ≤ d.length ∧ d.length ≤ 8000 ∧
      (s.station 3).holding + j < (s.station 3).queueCap ∧ j < s.freeStack.length;
    (3 : Nat) ≤ 511 ∧ es.length ≤ 16 ∧ (∀ d ∈ es, d.length < 65536) ∧
    s.Waits 0x20 7 (encodeEnqueue ⟨3, es⟩) ∧ (s.station 3).state = .active ∧
    s.RotationsAgree ∧ s.IndicationsAgree ∧ s.freeStack.Nodup ∧
    (∀ x ∈ [(0, frame 8000), (1, (⟨1, 1, .standard, true⟩ : Descriptor))],
      es[x.1]? = some x.2 ∧ fits x.1 x.2) ∧
    es[2]? = some (frame 0) ∧ ¬ fits 2 (frame 0) ∧ (s.port (s.station 3).port).state = .suspended := by
  refine ⟨by decide, by decide, by decide, ⟨rfl, rfl, rfl⟩, rfl, busy_rotations _, busy_indications _,
    show (List.range' 6 4090).Nodup from List.nodup_range', ?_, rfl, by decide, rfl⟩
  have hl : (Busy.state { hold := false, asleep := true }).freeStack.length = 4090 :=
    List.length_range'
  simp only [List.mem_cons, List.not_mem_nil, or_false]
  rintro x (rfl | rfl) <;>
    exact ⟨rfl, by decide, by decide, by decide, lt_of_lt_of_eq (by decide) hl.symm⟩

theorem test_meets_FlushEmptiesTheSelectedTiers :
    codeOf .flush 0x21 [3, 0] = some .badRecord ∧ codeOf .flush 0x21 [3, 0, 3] = some .badRecord ∧
    codeOf .flush 0x21 [0, 2, 2] = some .badStation ∧
    codeOf .flush 0x21 [255, 1, 2] = some .notAdmitted ∧
    ((after .flush (onStation 0x21 [3, 0, 2] fun r => { r with state := .departing })).cli.reply.map
      Reply.code) = some .departing ∧
    (waiting 0x21 [3, 0, 1]).Quiet 1 ∧ ((waiting 0x21 [3, 0, 1]).station 3).ps ≠ .service ∧
    ((waiting 0x21 [8, 0, 2]).station 8).ps = .service ∧
    ((waiting 0x21 [8, 0, 2]).station 8).dlInFlight = false ∧ (waiting 0x21 [8, 0, 2]).Quiet 1 ∧
    (prompt 0x21 [8, 0, 2]).Coherent :=
  ⟨by decide +kernel, by decide +kernel, by decide +kernel, by decide +kernel, by decide +kernel,
    ⟨by decide +kernel, by decide +kernel, by decide +kernel⟩, by decide +kernel, by decide +kernel,
    by decide +kernel, by constructor <;> decide +kernel, busy_coherent { cli := _, lifetimes := _ }⟩

/-- R33, R160: the flushed slot is DONE, and the service period it runs dry ends. R146 to R148: with no
coalescing time its COMPLETION is formed at once, and the slot is on top of the free stack. -/
theorem test_flush : let t := after .flush (waiting 0x21 [8, 0, 2]);
    (t.slot 3).state = .done ∧ (t.slot 3).status = .flushed ∧ (t.station 8).ps = .doze ∧
    t.port0.mainRot = [3, 10] ∧ t.port0.tis = [5] ∧
    t.port0.outbound = [.timUpdate .remove 11, .serviceEmpty 11] ∧
    let u := after .flush (prompt 0x21 [8, 0, 2]);
    u.cli.notices = [⟨false, .completion [⟨103, 8, .flushed⟩]⟩] ∧ u.freeStack.head? = some 3 := by
  decide +kernel

theorem test_meets_StatusReportsEveryItem :
    (waiting 0x30 [1]).cli.inbound.head? = some ⟨0x30, 7, [1]⟩ ∧
    (waiting 0x30 [1]).cli.reply = none ∧ (early 0x30 []).init.active = true ∧
    (waiting 0x30 []).init.active = false ∧ (waiting 0x30 []).slots.length ≤ 4096 := by
  decide +kernel

/-- R22, R184: the slot-state counts, and the reset values during initialization. -/
theorem test_status : busy.statusReport.freeCount = 4090 ∧ busy.statusReport.queuedCount = 4 ∧
    busy.statusReport.inFlightCount = 2 ∧ busy.statusReport.port0.serviceCount = 2 ∧
    (after .status (early 0x30 [])).cli.reply.map Reply.code = some .ok ∧
    (early 0x30 []).statusReport.inboundCount = 0 ∧
    grant9.report 13 = ⟨9, false, 7⟩ ∧ window10.report 20 = ⟨10, true, 0⟩ := by decide +kernel

/-! #### Presence, holds, discards -/

theorem test_meets_HelloGreetsAnAbsentPort : busy.init.active = false ∧
    (busy.port .one).state = .absent ∧ busy.cli.notices.length < 64 := by decide +kernel

/-- R109: a depth of 9 is stored as 4, and PRESENT is placed. -/
theorem test_hello : let t := after (.hello .one 9) busy;
    t.port1.state = .stopped ∧ t.port1.depth = 4 ∧
    t.cli.notices = [⟨false, .portEvent .one .present .none⟩] := by decide +kernel

theorem test_meets_HelloRestartsThePort : busy.Coherent ∧ busy.init.active = false ∧
    (busy.port .zero).state ≠ .absent ∧
    busy.departuresAt ((busy.port .zero).inFlight.flatMap InFlight.invited) = [7] :=
  ⟨busy_coherent {}, rfl, by decide +kernel, by decide +kernel⟩

/-- R110: grant 9's frame is LOST, station 8's service period ends, the hold is cleared. -/
theorem test_restart : let t := after (.hello .zero 1) busy;
    t.port0.state = .stopped ∧ t.port0.inFlight = [] ∧ t.port0.hold = false ∧
    (t.slot 0).status = .lost ∧ (t.station 8).ps = .doze ∧ (t.station 4).ulInFlight = false := by
  decide +kernel
/-- R110: without a coalescing time the COMPLETION of the lost frames still follows RESTARTED. -/
theorem test_restart_order :
    (after (.hello .zero 1) (Busy.state { lifetimes := ⟨100, 2000, 0⟩ })).cli.notices.map
      (fun n => n.body.type) = [0xC1, 0xC3, 0xC0] := by decide +kernel

theorem test_meets_HoldAndResumeMoveTheFlag :
    let free := busy.modPort .zero fun q => { q with hold := false };
    free.init.active = false ∧ (free.port .zero).state ≠ .absent ∧ (free.port .zero).hold = false ∧
    free.cli.notices.length < 64 ∧ (5 : Byte) ∉ [1, 2, 3] ∧
    (busy.port .one).state = .absent ∧ (busy.port .zero).hold = true ∧
    (busy.port .zero).state = .running ∧ (asleep.port .zero).state = .suspended ∧
    (asleep.port .zero).hold = false := by decide +kernel

/-- R129, R131: HOLD with reason 2, then RESUME, each with its notice. -/
theorem test_hold : let t := after (.hold .zero 2) (busy.modPort .zero fun q => { q with hold := false });
    t.port0.hold = true ∧ t.port0.holdReason = .beaconPrep ∧ t.port0.holdTimer = some 500 ∧
    t.cli.notices = [⟨false, .portEvent .zero .holdBegin .beaconPrep⟩] := by decide +kernel
theorem test_resume : let t := after (.resume .zero) busy;
    t.port0.hold = false ∧ t.port0.holdTimer = none ∧
    t.cli.notices.head? = some ⟨false, .portEvent .zero .holdEnd .other⟩ := by decide +kernel

theorem test_meets_DiscardedRecordsAreCounted :
    busy.init.active = false ∧ (busy.port .zero).mapped (15 : Half).toNat = none ∧
    (busy.port .zero).mapped (12 : Half).toNat = some 7 ∧ (busy.station 7).state = .departing ∧
    (busy.port .zero).mapped (9 : Half).toNat = some 5 ∧ (busy.station 5).ps = .doze ∧
    (busy.port .zero).mapped (7 : Half).toNat = some 3 ∧ (busy.station 3).ps = .awake ∧
    2 < (3 : Byte).toNat ∧ (busy.port .one).state = .absent ∧ (busy.port .zero).hold = true ∧
    decodeRadio .zero 0x55 [] = .radioRecordDiscarded .zero 0x55 [] := by decide +kernel

theorem test_discards : (after (.psEventDiscarded .zero 7 3) busy).port0.discarded = 1 ∧
    (after (.radioRecordDiscarded .one 0x55 []) busy).port1.discarded = 1 ∧
    (after (.psEventWake .zero 7) busy).port0.discarded = 1 ∧
    (after (.demand .zero 12 5) busy).port0.discarded = 1 := by decide +kernel

/-! #### Demand and power save -/

theorem test_meets_DemandIsStoredAndRetested : busy.Names .zero (7 : Half).toNat 3 ∧
    asleep.Names .zero (14 : Half).toNat 10 ∧ (asleep.port .zero).state = .suspended ∧
    10 ∉ (asleep.port .zero).ulRot ∧ (0 : Word) = 0 ∧ (1 : Word) ≠ 0 :=
  ⟨⟨rfl, by decide +kernel, by decide +kernel, by decide +kernel⟩,
    ⟨rfl, by decide +kernel, by decide +kernel, by decide +kernel⟩, rfl, by decide, rfl, by decide⟩

/-- R90: a demand above 16,777,215 is stored as 16,777,215; R94: demand 0 leaves the rotation; R81, R116: a
demand that joins it wakes a SUSPENDED port, and its decision fills the table. -/
theorem test_demand : ((after (.demand .zero 7 0xFFFFFFFF) busy).station 3).demand = 16777215 ∧
    (after (.demand .zero 7 0) busy).port0.ulRot = [4] ∧
    (after (.demand .zero 14 1) asleep).port0.inFlight.length = 4 := by decide +kernel

theorem test_meets_DozeTakesTheStationOffTheAir : busy.Names .zero (7 : Half).toNat 3 ∧
    (busy.station 3).ps ≠ .doze ∧ busy.GrantsAgree :=
  ⟨⟨rfl, by decide +kernel, by decide +kernel, by decide +kernel⟩, by decide +kernel,
    busy_grants {}⟩

/-- R154, R127, R162: station 3 leaves its rotations, its grant is revoked, and its frame indicated. -/
theorem test_doze : let t := after (.psEventDoze .zero 7) busy;
    t.port0.mainRot = [8, 10] ∧ t.port0.ulRot = [4] ∧ (t.station 3).dlBalance = 0 ∧
    t.port0.outbound = [.revoke 9, .timUpdate .add 7] := by decide +kernel

theorem test_meets_WakeBringsTheStationBack : busy.Names .zero (9 : Half).toNat 5 ∧
    (busy.station 5).ps ≠ .awake ∧ busy.RotationsAgree ∧ asleep.Names .zero (9 : Half).toNat 5 ∧
    (asleep.port .zero).state = .suspended ∧ asleep.RotationsAgree :=
  ⟨⟨rfl, by decide +kernel, by decide +kernel, by decide +kernel⟩, by decide +kernel, busy_rotations _,
    ⟨rfl, by decide +kernel, by decide +kernel, by decide +kernel⟩, rfl, busy_rotations _⟩

theorem test_wake : let t := after (.psEventWake .zero 9) busy;
    t.port0.mainRot = [3, 8, 10, 5] ∧ t.port0.tis = [8] ∧ t.port0.outbound = [.timUpdate .remove 9] := by
  decide +kernel

theorem test_meets_TriggerOpensAServicePeriod : busy.Names .zero (9 : Half).toNat 5 ∧
    (busy.station 5).ps = .doze ∧ busy.RotationsAgree ∧ (busy.station 5).hasQueued ∧
    asleep.Names .zero (9 : Half).toNat 5 ∧ busy.Names .zero (10 : Half).toNat 6 ∧
    (busy.station 6).ps = .doze ∧ ¬ (busy.station 6).hasQueued :=
  ⟨⟨rfl, by decide +kernel, by decide +kernel, by decide +kernel⟩, by decide +kernel,
    busy_rotations _, by decide +kernel,
    ⟨rfl, by decide +kernel, by decide +kernel, by decide +kernel⟩,
    ⟨rfl, by decide +kernel, by decide +kernel, by decide +kernel⟩, by decide +kernel,
    by decide +kernel⟩

/-- R156: allowance 8, deadline 25 + 50; a station without frames draws SERVICE_EMPTY. -/
theorem test_trigger : let t := after (.psEventTrigger .zero 9) busy;
    (t.station 5).ps = .service ∧ (t.station 5).allowance = 8 ∧ (t.station 5).deadline = 75 ∧
    t.port0.mainRot = [3, 8, 10, 5] ∧
    (after (.psEventTrigger .zero 10) busy).port0.outbound = [.serviceEmpty 10] := by decide +kernel

theorem test_meets_ServiceDeadlineEndsTheService :
    (busy.station 8).ps = .service ∧ (busy.clock.ms - (busy.station 8).deadline).toNat < 2147483648 ∧
    busy.GrantsAgree ∧ (busy.station 3).ps ≠ .service ∧ 2147483648 ≤ ((25 : Word) - 26).toNat :=
  ⟨by decide +kernel, by decide +kernel, busy_grants {}, by decide +kernel, by decide +kernel⟩

/-- R159: taken at the deadline's own millisecond, not one before. -/
theorem test_service_deadline :
    (after (.serviceDeadline 8) { busy with clock := ⟨0, 0, 5⟩ }).port0.outbound = [.serviceEmpty 11] ∧
    ((after (.serviceDeadline 8) { busy with clock := ⟨0, 0, 4⟩ }).station 8).ps = .service := by
  decide +kernel

/-! #### Ends of grants -/

theorem test_meets_UnmatchedOutcomesAreCounted : busy.init.active = false ∧
    (∀ e ∈ (busy.port .zero).inFlight, e.number = 10 → ∃ l n, e.work = .ul l n) ∧
    (∀ e ∈ (busy.port .zero).inFlight, e.number = 9 → ∃ i t l n b c, e.work = .dl i t l n b c) := by
  refine ⟨rfl, fun e he hn => ?_, fun e he hn => ?_⟩ <;>
    (change e ∈ [grant9, window10, grant12 true] at he
     simp only [List.mem_cons, List.not_mem_nil, or_false] at he
     rcases he with rfl | rfl | rfl)
  · cases hn
  · exact ⟨_, _, rfl⟩
  · cases hn
  · exact ⟨_, _, _, _, _, _, rfl⟩
  · cases hn
  · cases hn

theorem test_unmatched : (after (.outcome .zero ⟨10, 5, 14, none, [0]⟩) busy).port0.unmatchedOutcomes = 1 ∧
    (after (.ulOutcome .zero ⟨9, []⟩) busy).port0.inFlight.length = 3 := by decide +kernel

/-- Station 9's service ends with its grant, on a held port and on one that decides; station 3 of `lone` is one
attempt short of its window. -/
theorem test_meets_OutcomeSettlesEachFrame (eos : Bool) : let s := Busy.state { eos };
    let d := Busy.state { eos, hold := false, full := true };
    let u := lone false;
    s.Coherent ∧ s.init.active = false ∧ d.Coherent ∧ d.init.active = false ∧ asleep.Coherent ∧
    (∀ e ∈ [grant9, grant12 eos], e ∈ (s.port .zero).inFlight ∧ e ∈ (d.port .zero).inFlight) ∧
    grant9.work = .dl 3 .standard [0] 412 false false ∧
    (grant12 eos).work = .dl 9 .expedited [4] 2259 eos false ∧ (s.station 9).ps = .service ∧
    ¬ (s.station 9).hasQueued ∧
    u.Coherent ∧ u.init.active = false ∧ (u.port .zero).state = .draining ∧
    (u.port .zero).inFlight = [grant9] ∧ u.monitor.window = (u.station 3).attempts + 1 :=
  ⟨busy_coherent _, rfl, busy_coherent _, rfl, busy_coherent _, by cases eos <;> decide +kernel,
    rfl, rfl, rfl, by cases eos <;> decide +kernel, lone_coherent _, rfl, rfl, rfl, rfl⟩

/-- R139, R140, R92: grant 9 delivered at 400 µs: 50 + (412 - 400), airtime 400, demand 9. R123, R116: where the
port is not held a decision then refills its table. -/
theorem test_outcome : let t := after (.outcome .zero ⟨9, 400, 3, some 9, [0]⟩) busy;
    (t.station 3).dlBalance = 62 ∧ (t.station 3).airDl = 400 ∧ (t.station 3).rateCode = 3 ∧
    (t.station 3).demand = 9 ∧ (t.slot 0).status = .delivered ∧
    t.port0.inFlight = [window10, grant12 true] ∧
    (after (.outcome .zero ⟨9, 400, 3, some 9, [0]⟩) full).port0.inFlight.length = 3 := by
  decide +kernel
/-- R39: an UNSENT frame goes back to the head of its tier. R158: the end-of-service flag puts station 9 to
DOZE with no record. -/
theorem test_outcome_unsent : let t := after (.outcome .zero ⟨9, 0, 14, none, [2]⟩) busy;
    (t.station 3).stdFifo = [0, 1] ∧ (t.slot 0).state = .queued ∧ t.done = [] ∧
    let u := after (.outcome .zero ⟨12, 0, 14, none, [0]⟩) busy;
    (u.station 9).ps = .doze ∧ u.port0.outbound = [] := by decide +kernel

theorem test_meets_UlOutcomeSettlesEachInvitee : let u := lone true;
    busy.Coherent ∧ busy.init.active = false ∧
    window10 ∈ (busy.port .zero).inFlight ∧ window10.number = 10 ∧
    window10.work = .ul [⟨4, 378⟩, ⟨7, 192⟩] 570 ∧ full.Coherent ∧ window10 ∈ (full.port .zero).inFlight ∧
    (busy.station 4).state = .active ∧ (busy.station 7).state = .departing ∧
    busy.departuresAt [4, 7] = [7] ∧
    u.Coherent ∧ u.init.active = false ∧ (u.port .zero).state = .draining ∧
    (u.port .zero).inFlight = [⟨9, 0, 20, .ul [⟨3, 378⟩] 378⟩] :=
  ⟨busy_coherent {}, rfl, by decide +kernel, rfl, rfl, busy_coherent _, by decide +kernel, rfl, rfl,
    by decide +kernel, lone_coherent _, rfl, rfl, rfl⟩

/-- R115, R170 to R172: the last outcome of a DRAINING port leaves it STOPPED, its epoch timer stopped; the
FAILED frame closes station 3's window at 12 failures, and STATION_HEALTH stands ahead of STOPPED. -/
theorem test_last_outcome : let t := after (.outcome .zero ⟨9, 400, 3, none, [1]⟩) (lone false);
    t.port0.state = .stopped ∧ t.port0.epochTimer = none ∧ t.port0.inFlight = [] ∧
    t.cli.notices.map Notice.body = [.stationHealth 3 .degraded 12, .portEvent .zero .stopped .none] ∧
    (t.station 3).attempts = 0 ∧ (t.station 3).degradedWindows = 1 ∧
    let u := after (.ulOutcome .zero ⟨9, []⟩) (lone true);
    u.port0.state = .stopped ∧ u.port0.epochTimer = none ∧
    u.cli.notices.map Notice.body = [.portEvent .zero .stopped .none] := by decide +kernel

/-- Section 5, one uplink window: B, A, E, G on codes 3, 14, 14, 14 with demands 1000, 30000, 40, 90000, and
a downlink-since-uplink count. -/
def uplinkWith (since : Nat) (ratio : Nat := 3) : State :=
  let st (assoc code demand : Nat) : Station := { Station.vacantRecord with
    state := .active, assoc := assoc, rateCode := code, demand := demand }
  { State.reset with
    init := ⟨false, 0, .resetN⟩
    stations := [(3, st 13 3 1000), (4, st 14 14 30000), (5, st 15 14 40), (6, st 16 14 90000)]
    port0 := { Port.afterReset with
      state := .running, params := { PortParams.defaults with trim := 2, ulRatio := ratio }
      rates := rates, nextNumber := 9, sinceUplink := since, ulRot := [3, 4, 5, 6], epochTimer := some 0
      assocMap := [(13, some 3), (14, some 4), (15, some 5), (16, some 6)] } }

def uplinkExample : State := uplinkWith 3

/-- The window is grant 9, with D = 1406, and leaves 1542, 1622, 1808 and 1622. -/
theorem test_uplink_window : let t := uplinkExample.decision .zero;
    t.port0.outbound = [.ulWindow 9 1406 [(13, 458), (14, 378), (15, 192), (16, 378)]] ∧
    [3, 4, 5, 6].map (fun i => (t.station i).ulBalance) = [1542, 1622, 1808, 1622] ∧
    t.port0.sinceUplink = 0 := by decide +kernel

/-- Its UL_OUTCOME leaves the balances 0, 1622, 0 and 0, A's demand 9000, and A alone in the rotation. -/
theorem test_ul_outcome :
    let t := after (.ulOutcome .zero ⟨9, [⟨13, 470, 1000, none⟩,
      ⟨14, 378, 21000, some 9000⟩, ⟨15, 0, 0, none⟩]⟩)
      ((uplinkExample.decision .zero).modPort .zero fun q => { q with hold := true });
    [3, 4, 5, 6].map (fun i => (t.station i).ulBalance) = [0, 1622, 0, 0] ∧
    [3, 4, 5, 6].map (fun i => (t.station i).demand) = [0, 9000, 0, 0] ∧
    t.port0.ulRot = [4] ∧ (t.station 3).airUl = 470 := by decide +kernel

theorem test_meets_GrantTimeoutLosesTheGrant (eos : Bool) :
    let s := Busy.state { eos, hold := false, full := true };
    s.Coherent ∧ (s.port .zero).consecutiveTimeouts < 2 ∧
    (∀ e ∈ [grant9, window10, grant12 eos], e ∈ (s.port .zero).inFlight ∧
      (e.deadline - e.issueTime).toNat ≤ (s.clock.ms - e.issueTime).toNat) ∧
    (s.station 9).ps = .service ∧ ¬ (s.station 9).hasQueued ∧ s.departuresAt [4, 7] = [7] ∧
    (∀ e ∈ (s.port .zero).inFlight, e.number = 11 → False) ∧
    ((19 : Word) - grant9.issueTime).toNat < (grant9.deadline - grant9.issueTime).toNat :=
  ⟨busy_coherent _, by cases eos <;> decide +kernel, by cases eos <;> decide +kernel, rfl, by cases eos <;> decide +kernel,
    by cases eos <;> decide +kernel, by cases eos <;> decide +kernel, by decide +kernel⟩

/-- R124: taken at the deadline's millisecond, not one before; the charge stands. -/
theorem test_grant_timeout : let t := after (.grantTimeout .zero 9) { busy with clock := ⟨0, 0, 20⟩ };
    (t.slot 0).status = .lost ∧ (t.station 3).dlBalance = 50 ∧ t.port0.grantTimeouts = 1 ∧
    (after (.grantTimeout .zero 9) { busy with clock := ⟨0, 0, 19⟩ }).port0.grantTimeouts = 0 := by
  decide +kernel

theorem test_meets_ThirdTimeoutLosesThePort : let s := Busy.state { timeouts := 2 };
    s.Coherent ∧ grant9 ∈ (s.port .zero).inFlight ∧ (s.port .zero).consecutiveTimeouts = 2 ∧
    (grant9.deadline - grant9.issueTime).toNat ≤ (s.clock.ms - grant9.issueTime).toNat :=
  ⟨busy_coherent _, by decide +kernel, rfl, by decide +kernel⟩

/-- R126: the third timeout in a row leaves the port ABSENT with its rotations and next number kept; without
a coalescing time the COMPLETION of its lost frames still follows LOST. -/
theorem test_port_loss : let t := after (.grantTimeout .zero 10) (busyWith ControlLink.afterReset 2 0);
    t.port0.state = .absent ∧ t.port0.inFlight = [] ∧ t.port0.portLosses = 1 ∧
    t.port0.nextNumber = 11 ∧ t.port0.mainRot = [3, 10] ∧
    (after (.grantTimeout .zero 10) (Busy.state
      { timeouts := 2, lifetimes := ⟨100, 2000, 0⟩ })).cli.notices.map (fun n => n.body.type) =
        [0xC1, 0xC3, 0xC0] := by decide +kernel

/-! #### Timers -/

/-- State.reset with port 0 changed. -/
def idlePort (f : Port → Port) : State := State.reset.modPort .zero f

theorem test_meets_EpochAndResumeTimersExpire :
    let q (f : Port → Port) := (idlePort f).port .zero;
    let stale := Busy.state { lifetimes := ⟨100, 24, 100⟩ };
    (q id).epochTimer ≠ some 0 ∧ (q id).resumeTimer ≠ some 0 ∧
    (q fun q => { q with epochTimer := some 0 }).epochTimer = some 0 ∧
    (∀ i, ((idlePort fun q => { q with epochTimer := some 0 }).station i).ps ≠ .doze) ∧
    (stale.port .zero).epochTimer = some 0 ∧ stale.Coherent ∧
    stale.Canonical ∧ stale.Quiet 1 ∧ 24 < (stale.clock.ms - (stale.slot 2).enqueued).toNat ∧
    (q fun q => { q with resumeTimer := some 0, state := .suspended }).resumeTimer = some 0 ∧
    (q fun q => { q with resumeTimer := some 0, state := .suspended }).state = .suspended ∧
    (q fun q => { q with resumeTimer := some 0, state := .suspended }).hold = false :=
  ⟨by decide, by decide, rfl, fun i => (show (Station.vacantRecord).ps ≠ .doze by decide), rfl,
    busy_coherent _,
    ⟨by decide, by decide, by decide, fun p => by cases p <;> constructor <;> decide⟩,
    ⟨by decide +kernel, by decide +kernel, by decide +kernel⟩, by decide +kernel, rfl, rfl, rfl⟩

/-- R86, R165: the budget is refilled, the timer restarted, and station 5's stale frame expired. -/
theorem test_epoch :
    let t := after (.epochExpiry .zero)
      ({ busy with lifetimes := ⟨100, 24, 100⟩ }.modPort .zero fun q => { q with budget := 3 });
    t.port0.budget = 25000 ∧ t.port0.epochTimer = some 100 ∧ (t.slot 2).status = .expired ∧
    (t.slot 1).state = .queued := by decide +kernel
/-- R82: an expiry wakes the port; with nothing to send its decision suspends it again, IDLE. -/
theorem test_resume_timer :
    let t := after (.resumeTimerExpiry .zero) (idlePort fun q => { q with
      resumeTimer := some 0, state := .suspended, suspendReason := .examinationLimit,
      rates := rates });
    t.port0.state = .suspended ∧ t.port0.suspendReason = .idle ∧ t.port0.resumeTimer = none := by
  decide +kernel

theorem test_meets_HoldTimerExpiryPlacesStalled : (busy.port .zero).holdTimer = some 0 ∧
    (busy.port .zero).hold = true ∧ (busy.port .one).holdTimer ≠ some 0 := by decide +kernel
theorem test_hold_timer : let t := after (.holdTimerExpiry .zero) busy;
    t.port0.holdStalls = 1 ∧ t.port0.hold = true ∧ t.port0.holdTimer = none ∧
    t.cli.notices = [⟨false, .portEvent .zero .stalled .other⟩] := by decide +kernel

/-- R182: with 64 notices waiting STALLED is dropped and the loss marked. -/
theorem test_notice_lost :
    let t := after (.holdTimerExpiry .zero) (busyWith
      { ControlLink.afterReset with notices := List.replicate 64 ⟨false, .ready .resetN⟩ } 0 0);
    t.cli.notices.length = 64 ∧ t.cli.lossPending = true := by decide +kernel

/-- Slot 1 finished at microsecond 0, and the clock at microsecond 100. -/
def coalesced (notices : List Notice) : State := { busy with
  clock := ⟨100, 0, 25⟩, done := [⟨1, 0⟩], coalTimer := .running
  cli := { ControlLink.afterReset with notices := notices } }

/-- `n` slots from 20 on are finished, and the timer has expired. -/
def finishedMany (n : Nat) (notices : List Notice) : State := { coalesced notices with
  done := (List.range' 20 n).map fun k => ⟨k, 0⟩, coalTimer := .expired }

theorem test_meets_CoalescedSlotsAreReported :
    let completions (s : State) := (s.cli.notices.filter fun n => n.body.isCompletion).length;
    let full (n : Nat) : List Notice := List.replicate n ⟨false, .completion []⟩;
    (coalesced []).done = ⟨1, 0⟩ :: [] ∧ (coalesced []).coalTimer = .running ∧
    (coalesced []).lifetimes.coalescing ≤ ((coalesced []).clock.us - 0).toNat ∧
    completions (coalesced (full 47)) < 48 ∧ 48 ≤ completions (coalesced (full 48)) ∧
    (coalesced (full 47)).cli.notices.length < 64 ∧ (coalesced []).done.length ≤ 16 ∧
    ((coalesced []).done.map DoneEntry.slot).Nodup ∧
    (finishedMany 17 (full 48)).cli.notices = ⟨false, .completion []⟩ :: full 47 ∧
    16 ≤ (finishedMany 17 (full 48)).done.length ∧
    ((finishedMany 17 (full 48)).done.map DoneEntry.slot).Nodup ∧
    (finishedMany 1 (full 1)).coalTimer = .expired ∧ (finishedMany 15 []).done.length = 15 ∧
    ((finishedMany 15 []).done.map DoneEntry.slot ++ [0]).Nodup := by decide +kernel

/-- R148, R41: one entry with the slot's handle, and the slot on top of the free stack. -/
theorem test_coalescing : let t := after .coalescingTimerExpiry (coalesced []);
    t.cli.notices = [⟨false, .completion [⟨101, 3, .delivered⟩]⟩] ∧ t.freeStack.head? = some 1 ∧
    (after .coalescingTimerExpiry (coalesced (List.replicate 48 ⟨false, .completion []⟩))).coalTimer =
      .expired ∧ ((finishedMany 15 []).joinDone 0).done = [] ∧
    (after .noticeSent (finishedMany 17 (List.replicate 48 ⟨false, .completion []⟩))).done.length = 1 := by
  decide +kernel

/-! #### Decisions -/

theorem uplink_station (since ratio i : Nat) : i = 3 ∨ i = 4 ∨ i = 5 ∨ i = 6 ∨
    ((i < 3 ∨ 6 < i) ∧ (uplinkWith since ratio).station i = Station.vacantRecord) := by
  by_cases h : 3 ≤ i ∧ i ≤ 6
  · omega
  · right; right; right; right
    refine ⟨by omega, ?_⟩
    simp only [State.station, uplinkWith, Table.get]
    rw [if_neg (by omega), if_neg (by omega), if_neg (by omega), if_neg (by omega)]

theorem uplink_books (since ratio : Nat) (h : since ≤ 15) : (uplinkWith since ratio).Books where
  legal p := by
    cases p
    · exact ⟨rfl, (by decide : SuspendReason.none ≠ .none ↔ PortState.running = .suspended), rfl,
        nofun, fun _ => ⟨rfl, rfl⟩, (by decide : 1 ≤ 1 ∧ 1 ≤ 4), Nat.zero_le 1, fun _ => rfl,
        (by decide : 25000 ≤ 100 * 1000 * 25 / 100), h⟩
    · exact absent_legal
  once p := by
    cases p
    · exact ⟨.nil, .nil, (by decide : [3, 4, 5, 6].Nodup), .nil⟩
    · exact absent_once
  rotations := by
    constructor <;> intro p i <;>
      rcases uplink_station since ratio i with rfl | rfl | rfl | rfl | ⟨h, hv⟩
    all_goals first
      | (rw [hv]; cases p <;> simp [uplinkWith, State.port, State.reset, Port.afterReset,
          Station.vacantRecord]; omega)
      | (rw [hv]; cases p <;> simp [uplinkWith, State.port, State.reset, Port.afterReset,
          Station.vacantRecord])
      | (cases p <;> simp [uplinkWith, State.port, State.station, Table.get, State.reset,
          Port.afterReset, Station.vacantRecord, Station.hasQueued])
  indications p i := by
    rcases uplink_station since ratio i with rfl | rfl | rfl | rfl | ⟨h, hv⟩
    all_goals first
      | (rw [hv]; cases p <;> simp [uplinkWith, State.port, State.reset, Port.afterReset,
          Station.vacantRecord])
      | (cases p <;> simp [uplinkWith, State.port, State.station, Table.get, State.reset,
          Port.afterReset, Station.vacantRecord, Station.hasQueued])
  maps p a i := by
    have hm : (uplinkWith since ratio).port0.mapped a = if 13 = a then some 3 else if 14 = a then some 4
        else if 15 = a then some 5 else if 16 = a then some 6 else none := rfl
    constructor
    · intro h
      cases p
      · have ha : StationState.active ≠ .vacant := by decide
        rw [show (uplinkWith since ratio).port .zero = (uplinkWith since ratio).port0 from rfl, hm] at h
        split_ifs at h <;> cases h <;> subst a <;> exact ⟨ha, rfl, rfl⟩
      · cases h
    · rintro ⟨hs, rfl, rfl⟩
      rcases uplink_station since ratio i with rfl | rfl | rfl | rfl | ⟨h, hv⟩
      all_goals first
        | rfl
        | exact absurd (by rw [hv]; rfl) hs
  grants := by
    have he : ∀ p, ((uplinkWith since ratio).port p).inFlight = [] := fun p => by cases p <;> rfl
    have hf : ∀ i, ((uplinkWith since ratio).station i).dlInFlight = false ∧
        ((uplinkWith since ratio).station i).ulInFlight = false := fun i => by
      rcases uplink_station since ratio i with rfl | rfl | rfl | rfl | ⟨h, hv⟩
      all_goals first | exact ⟨rfl, rfl⟩ | (rw [hv]; exact ⟨rfl, rfl⟩)
    constructor <;> intros <;> simp_all
  pool := by
    have hq : ∀ i, ((uplinkWith since ratio).station i).expFifo = [] ∧
        ((uplinkWith since ratio).station i).stdFifo = [] ∧
        ((uplinkWith since ratio).station i).holding = 0 ∧
        ((uplinkWith since ratio).station i).unreported = 0 := fun i => by
      rcases uplink_station since ratio i with rfl | rfl | rfl | rfl | ⟨h, hv⟩
      all_goals first | exact ⟨rfl, rfl, rfl, rfl⟩ | (rw [hv]; exact ⟨rfl, rfl, rfl, rfl⟩)
    have hg : ∀ i, (uplinkWith since ratio).grantSlots i = [] := fun i => rfl
    refine ⟨?_, fun k _ => .inl rfl, fun k hk => absurd rfl hk, fun i t k hk => ?_,
      fun p e he => ?_, fun d hd => (by cases hd), fun i => ?_, fun i => (hq i).2.2.2⟩
    · simp only [hq, hg, List.append_nil]
      rw [List.flatMap_eq_nil_iff.2 fun _ _ => rfl, List.append_nil, List.range_eq_range']
      exact List.Perm.of_eq (List.append_nil _)
    · cases t <;> simp [Station.fifo, hq i] at hk
    · cases p <;> cases he
    · rw [hg, (hq i).2.2.1, Station.queuedCount, (hq i).1, (hq i).2.1]; rfl
  idle := by
    constructor <;> intro i hi <;>
      rcases uplink_station since ratio i with rfl | rfl | rfl | rfl | ⟨h, hv⟩
    all_goals first
      | exact hv
      | exact absurd hi (show StationState.active ≠ .vacant by decide)
      | exact absurd hi (show StationState.active ≠ .departing by decide)
      | (rw [hv] at hi; exact absurd hi (by decide))
      | (rw [hv]; rfl)
      | omega

theorem test_meets_DecisionIssuesOnceOrSuspends :
    let q (s : State) : Port := s.port .zero;
    let busy (s : State) (i : Nat) : Prop := (s.station i).dlInFlight = true;
    let exp := Busy.state { hold := false };
    let main := Busy.state { hold := false, spent := true };
    let tail := Busy.state { hold := false, spent := true, balance := -4000 };
    let deep := Busy.state { hold := false, spent := true, ratio := 0, dlQuantum := 500, balance := -32768 };
    (q exp).hasOpportunity = true ∧ exp.Books ∧ ((q exp).rate 3).enabled = true ∧
    0 < (q exp).budget ∧ (q exp).expRot = [] ++ 10 :: [] ∧ ¬ busy exp 10 ∧
    (exp.takeTier 10 .expedited).slots = [5] ∧
    (q main).hasOpportunity = true ∧ main.Books ∧ (q main).budget = 0 ∧
    ¬ (q main).params.ulRatio ≤ (q main).sinceUplink ∧ (q main).mainRot = [3] ++ 8 :: [10] ∧
    busy main 3 ∧ ¬ busy main 8 ∧ (main.takeTier 8 .standard).slots = [3] ∧
    0 < (main.station 8).dlBalance + quantum 4000 16 main.monitor .healthy ∧
    tail.Books ∧ (tail.station 8).dlBalance + quantum 4000 16 tail.monitor .healthy ≤ 0 ∧
    deep.Books ∧ (q deep).params.ulRatio = 0 ∧ (∀ i ∈ [8, 10], (deep.station i).dlBalance +
      64 * quantum 500 16 deep.monitor .healthy ≤ 0) ∧
    (∀ since ∈ [3, 2], (uplinkWith since).Books ∧ (q (uplinkWith since)).hasOpportunity = true ∧
      (q (uplinkWith since)).expRot = [] ∧ (q (uplinkWith since)).mainRot = [] ∧
      (collect 64 .zero 0 [] 0 (uplinkWith since)).2.1 ≠ []) ∧
    (uplinkWith 2 0).Books ∧ (q (uplinkWith 2 0)).hasOpportunity = true ∧
    (q (uplinkWith 2 0)).params.ulRatio = 0 := by
  refine ⟨by decide +kernel, busy_books _, by decide +kernel, by decide +kernel, rfl, by decide +kernel,
    by decide +kernel, by decide +kernel, busy_books _, rfl, by decide +kernel, rfl, rfl,
    by decide +kernel, by decide +kernel, by decide +kernel, busy_books _, by decide +kernel,
    busy_books _, rfl, by decide +kernel, fun since hs => ⟨uplink_books since 3 ?_, ?_⟩, uplink_books 2 0 (by decide), by decide +kernel, rfl⟩
  · revert hs; revert since; decide
  · revert hs; revert since; decide +kernel

theorem test_meets_TakeKeepsWithinItsLimits : let s := Busy.state { hold := false, lifetimes := ⟨24, 24, 100⟩ };
    s.Books ∧ (s.station 8).state = .active ∧ s.Quiet 1 ∧ busy.Books ∧
    (24 < (s.clock.ms - (s.slot 3).enqueued).toNat) ∧
    ¬ 2000 < (busy.clock.ms - (busy.slot 3).enqueued).toNat ∧
    (busy.port .zero).IsEffective (busy.station 3) 14 ∧ (busy.port .zero).IsEffective (busy.station 8) 3 := by
  refine ⟨busy_books _, rfl, ⟨by decide +kernel, by decide +kernel, by decide +kernel⟩, busy_books {},
    by decide +kernel, by decide +kernel, ⟨by decide +kernel, .inl rfl⟩, by decide +kernel,
    .inr ⟨by decide +kernel, .inr ⟨by decide +kernel, fun d h => ?_⟩⟩⟩
  have : ∀ d < 32, (busy.port0.rate d).enabled = true → 3 ≤ d := by decide +kernel
  exact this d (Nat.lt_succ_of_le h.2.1) h.2.2
theorem test_meets_IssueNumbersRecordsAndSends : (busy.port .zero).inFlight.length ≤ 4 := by
  decide +kernel
theorem test_meets_WindowsInviteWithinTheLength : (uplinkWith 3).Books ∧
    1 ≤ ((uplinkWith 3).port .zero).params.ulMax ∧
    ((uplinkWith 3).port .zero).ulRot = [] ++ 3 :: [4, 5, 6] ∧
    (∀ i ∈ ((uplinkWith 3).port .zero).ulRot, ¬ ((uplinkWith 3).station i).ulInFlight = true ∧
      ((uplinkWith 3).station i).ulCredited = false ∧ ((uplinkWith 3).station i).ulBalance = 0) ∧
    0 < quantum 2000 ((uplinkWith 3).weight 0) (uplinkWith 3).monitor .healthy ∧
    ((uplinkWith 3).port .zero).IsEffective ((uplinkWith 3).station 4) 14 :=
  ⟨uplink_books 3 3 (by decide), by decide, rfl, by decide +kernel, by decide +kernel,
    by decide +kernel, .inl rfl⟩

/-- R76, R118, R119, R157: with the hold off, station 8 is granted its frame under number 11, its last,
after leaving the set (R163). -/
theorem test_decision :
    (((Busy.state { hold := false, spent := true }).decision .zero).port0.outbound =
      [.timUpdate .remove 11, .grant 11 11 .standard true 2259 [(103, 1500)]]) := by decide +kernel

theorem test_meets_AirtimeArithmeticIsExact : (0 : Nat) < 1 ∧ (-7 : Int) ≤ -7 ∧
    ((0 : Int) + 4 * (-7) + payloadTime 4800 1 < 1) ∧
    (65535 < (0 : Int) + 4 * 0 + payloadTime 2 8255) ∧
    (1 ≤ (120 : Int) + 4 * 2 + payloadTime 1040 18456) := by decide +kernel

theorem test_meets_MonitorWindowsCloseByThresholds : Result.failed ≠ .unsent ∧
    (busy.station 3).attempts + 1 < busy.monitor.window ∧
    busy.monitor.window ≤ ({ station3 with attempts := 63 } : Station).attempts + 1 := by
  decide +kernel

/-- Section 9, a station degrades: attempts 10, failures 4, then an outcome of eight results. -/
theorem test_monitor :
    let s := { busy with monitor := ⟨16, 6, 2, 4, 50⟩ }.modStation 3
      fun r => { r with attempts := 10, failures := 4 };
    let t := [Result.delivered, .failed, .failed, .delivered, .delivered, .delivered, .unsent,
      .failed].foldl (fun s r => s.feed 3 r) s;
    (t.station 3).health = .degraded ∧ (t.station 3).degradedWindows = 1 ∧
    (t.station 3).attempts = 1 ∧ (t.station 3).failures = 1 ∧
    t.cli.notices = [⟨false, .stationHealth 3 .degraded 6⟩] := by decide +kernel

/-! #### What every step keeps -/

theorem test_meets_EveryStepKeepsTheSoundState : (∃ t, step busy = .next t) ∧ busy.Canonical ∧
    busy.PortsLegal ∧ busy.ListsOnce ∧ busy.Bounded ∧ busy.BalancesInRange ∧ busy.WithinCaps ∧
    busy.Coherent ∧ busy.DebtsOutside := by
  refine ⟨⟨_, rfl⟩, ⟨by decide, by decide, by decide, fun p => ?_⟩, busy_legal {}, busy_once {},
    ⟨⟨by decide, by decide, by decide, by decide, by decide, fun x hx => by cases hx⟩, fun p => ?_⟩,
    fun i => ?_, fun i => ?_, busy_coherent {}, fun i => ?_⟩
  · cases p <;> constructor <;> decide
  · cases p <;> constructor <;> decide
  all_goals
    rcases busy_cases {} i with rfl | rfl | rfl | rfl | rfl | rfl | rfl | rfl | ⟨-, hv⟩
    all_goals first
      | decide +kernel
      | (unfold busy busyWith
         rw [hv]
         first | decide | exact ⟨fun _ => le_refl _, fun _ => le_refl _⟩)

theorem test_meets_EveryStepKeepsRotationsAndMaps : (∃ t, step busy = .next t) ∧
    busy.RotationsAgree ∧ busy.MapsAgree := ⟨⟨_, rfl⟩, busy_rotations _, busy_maps {}⟩

theorem test_meets_EveryStepKeepsTheBooks : (∃ t, step busy = .next t) ∧ busy.Coherent :=
  ⟨⟨_, rfl⟩, busy_coherent {}⟩

end Sys2Proof.Tests
end

/-! SUPPORT. A request that waits at the head of the inbound queue, said once: handling it is forming its
owner's answer into the reply buffer (R179, R181). With it the readers of the station requests' bodies, by
the length of the body, the clamps of R6 and the checks the station requests share. Then the Station Table's
requests and resets. -/

namespace Sys2Proof.Machine

/-! ### Handling a waiting request -/

@[simp] theorem State.replied_station (s : State) (type tag : Byte) (c : ReplyCode) (f : ReplyFields)
    (i : Nat) : (s.replied type tag c f).station i = s.station i := rfl

@[simp] theorem State.replied_port (s : State) (type tag : Byte) (c : ReplyCode) (f : ReplyFields)
    (p : PortNo) : (s.replied type tag c f).port p = s.port p := by cases p <;> rfl

@[simp] theorem State.replied_reply (s : State) (type tag : Byte) (c : ReplyCode) (f : ReplyFields) :
    (s.replied type tag c f).cli.reply = some ⟨type, tag, c, f⟩ := rfl

/-- The record that waits is the head request of its type. -/
theorem State.Waits.headRequest_eq {s : State} {type tag : Byte} {body : List Byte}
    (hw : s.Waits type tag body) : s.headRequest type = some ⟨type, tag, body⟩ := by
  obtain ⟨rest, hin⟩ := List.head?_eq_some_iff.1 hw.head
  simp [State.headRequest, hin, hw.reply]

/-- A waiting request is handled by its owner, whose answer becomes the reply (R179). -/
theorem State.Waits.handle_eq {s t : State} {type tag : Byte} {body : List Byte}
    {owner : List Byte → State → Answer} {c : ReplyCode} {f : ReplyFields}
    (hw : s.Waits type tag body) (ha : owner body s = ⟨t, c, f⟩) :
    s.handle type owner = t.replied (type + 0x80) tag c f := by
  simp [State.handle, hw.headRequest_eq, hw.ready, ha, State.putReply, State.modCli, State.replied]

/-! ### Bodies -/

theorem parseAdmit_eq_none_iff (body : List Byte) : parseAdmit body = none ↔ body.length ≠ 11 := by
  unfold parseAdmit
  split
  · simp
  · next h =>
    simp only [true_iff]
    intro hl
    match body, hl with
    | [_, _, _, _, _, _, _, _, _, _, _], _ => exact h _ _ _ _ _ _ _ _ _ _ _ rfl

theorem parseUpdate_eq_none_iff (body : List Byte) : parseUpdate body = none ↔ body.length ≠ 8 := by
  unfold parseUpdate
  split
  · simp
  · next h =>
    simp only [true_iff]
    intro hl
    match body, hl with
    | [_, _, _, _, _, _, _, _], _ => exact h _ _ _ _ _ _ _ _ rfl

theorem parseStation_eq_none_iff (body : List Byte) : parseStation body = none ↔ body.length ≠ 2 := by
  unfold parseStation
  split
  · simp
  · next h =>
    simp only [true_iff]
    intro hl
    match body, hl with
    | [_, _], _ => exact h _ _ rfl

/-! ### Operands -/

/-- A port field names a port up to 1. -/
theorem exists_portOf {n : Nat} (h : n ≤ 1) : ∃ p, portOf n = some p := by
  interval_cases n <;> exact ⟨_, rfl⟩

theorem portOf_eq_none {n : Nat} (h : 1 < n) : portOf n = none := by
  simp [portOf, show n ≠ 0 by omega, show n ≠ 1 by omega]

@[simp] theorem clampClass_eq (n : Nat) : clampClass n = min 7 n := Nat.zero_max _
@[simp] theorem clampRateMode_eq (n : Nat) : clampRateMode n = min 31 n := Nat.zero_max _
@[simp] theorem clampRateCode_eq (n : Nat) : clampRateCode n = max 1 (min 31 n) := rfl
@[simp] theorem clampQueueCap_eq (n : Nat) : clampQueueCap n = max 8 (min 256 n) := rfl
@[simp] theorem clampFrameLimit_eq (n : Nat) : clampFrameLimit n = max 1 (min 64 n) := rfl

/-! ### The checks that station requests share -/

theorem State.checkActive_badStation (s : State) {i : Nat} (h : 511 < i) :
    s.checkActive i = some .badStation := if_pos h

theorem State.checkActive_vacant {s : State} {i : Nat} (h : ¬ 511 < i)
    (hs : (s.station i).state = .vacant) : s.checkActive i = some .notAdmitted := by
  simp [State.checkActive, h, hs]

theorem State.checkActive_departing {s : State} {i : Nat} (h : ¬ 511 < i)
    (hs : (s.station i).state = .departing) : s.checkActive i = some .departing := by
  simp [State.checkActive, h, hs]

theorem State.checkActive_active {s : State} {i : Nat} (h : ¬ 511 < i)
    (hs : (s.station i).state = .active) : s.checkActive i = none := by
  simp [State.checkActive, h, hs]

/-! ### ADMIT (R5 to R7) -/

theorem ownAdmit_of_error {body : List Byte} {s : State} {r : AdmitReq} {c : ReplyCode}
    (hr : parseAdmit body = some r) (hc : s.checkAdmit r = .error c) :
    ownAdmit body s = s.refuse c := by simp [ownAdmit, hr, hc]

/-- What an accepted ADMIT writes: the record and the map entry. -/
theorem ownAdmit_of_ok {body : List Byte} {s : State} {r : AdmitReq} {p : PortNo}
    (hr : parseAdmit body = some r) (hc : s.checkAdmit r = .ok p) :
    ownAdmit body s = ⟨(s.setStation r.station (admittedRecord p r)).setPort p
      ((s.port p).setMapped r.assoc (some r.station)), .ok, .nothing⟩ := by
  simp [ownAdmit, hr, hc, State.modPort]

/-- The stored record, field by field (R6, R7). -/
theorem admittedRecord_eq (p : PortNo) (r : AdmitReq) : admittedRecord p r =
    { state := .active, port := p, assoc := r.assoc, cls := min 7 r.cls,
      rateMode := min 31 r.rateMode, rateCode := max 1 (min 31 r.rateCode),
      queueCap := max 8 (min 256 r.queueCap), frameLimit := max 1 (min 64 r.frameLimit),
      holding := 0, unreported := 0, expFifo := [], stdFifo := [], dlBalance := 0,
      ulBalance := 0, mainCredited := false, ulCredited := false, dlInFlight := false,
      ulInFlight := false, demand := 0, ps := .awake, allowance := 0, deadline := 0,
      health := .healthy, attempts := 0, failures := 0, degradedWindows := 0, airDl := 0,
      airUl := 0 } := by
  simp [admittedRecord, Station.vacantRecord]

/-- Settles O25: each check of R5 that fails is the one `checkAdmit` answers, and with none failing the
record and the map entry are written. -/
theorem admitChecksInOrderAndBinds : Obligations.AdmitChecksInOrderAndBinds := by
  intro tag body s hw refused
  have refuse {c : ReplyCode} (h : ownAdmit body s = s.refuse c) : refused c :=
    congrArg Host.Outcome.next (hw.handle_eq h)
  by_cases hlen : body.length ≠ 11
  · rw [if_pos hlen]
    exact refuse (by simp [ownAdmit, (parseAdmit_eq_none_iff body).2 hlen])
  rw [if_neg hlen]
  obtain ⟨r, hr⟩ := Option.ne_none_iff_exists'.1 (mt (parseAdmit_eq_none_iff body).1 hlen)
  have fail {c : ReplyCode} (h : s.checkAdmit r = .error c) : refused c :=
    refuse (ownAdmit_of_error hr h)
  refine ⟨r, hr, ?_⟩
  split_ifs with hstation hport hassoc hstate
  · exact fail (by simp [State.checkAdmit, hstation])
  · exact fail (by simp [State.checkAdmit, hstation, portOf_eq_none hport])
  all_goals obtain ⟨p, hp⟩ := exists_portOf (Nat.le_of_not_lt hport)
  · exact fail (by simp [State.checkAdmit, hstation, hp, hassoc])
  · exact fail (by simp [State.checkAdmit, hstation, hp, hassoc, hstate])
  refine ⟨p, hp, ?_⟩
  split_ifs with habsent hmapped
  · exact fail (by simp [State.checkAdmit, hstation, hp, hassoc, hstate, habsent])
  · exact fail (by
      simp [State.checkAdmit, hstation, hp, hassoc, hstate, habsent, Option.isSome_iff_ne_none,
        hmapped])
  · have hok : s.checkAdmit r = .ok p := by
      simp [State.checkAdmit, hstation, hp, hassoc, hstate, habsent, not_not.1 hmapped]
    refine ⟨_, congrArg Host.Outcome.next (hw.handle_eq (ownAdmit_of_ok hr hok)), ?_, ?_, ?_, ?_⟩
    · simp [Port.setMapped]
    · simp [admittedRecord_eq]
    · intro i hi; simp [hi]
    · intro a; simp

/-! ### UPDATE (R8 to R10) -/

theorem ownUpdate_of_error {body : List Byte} {s : State} {r : UpdateReq} {c : ReplyCode}
    (hr : parseUpdate body = some r) (hc : s.checkActive r.station = some c) :
    ownUpdate body s = s.refuse c := by simp [ownUpdate, hr, hc]

theorem ownUpdate_of_ok {body : List Byte} {s : State} {r : UpdateReq}
    (hr : parseUpdate body = some r) (hc : s.checkActive r.station = none) :
    ownUpdate body s = ⟨s.setStation r.station (updatedRecord r (s.station r.station)), .ok,
      .queueCap (updatedRecord r (s.station r.station)).queueCap⟩ := by simp [ownUpdate, hr, hc]

/-- The masked fields, field by field (R8, R10). -/
theorem updatedRecord_eq (r : UpdateReq) (x : Station) : updatedRecord r x =
    { x with
      cls := if r.setClass then min 7 r.cls else x.cls
      rateMode := if r.setRateMode then min 31 r.rateMode else x.rateMode
      queueCap := if r.setQueueCap then max x.holding (max 8 (min 256 r.queueCap)) else x.queueCap
      frameLimit := if r.setFrameLimit then max 1 (min 64 r.frameLimit) else x.frameLimit } := by
  simp [updatedRecord, Nat.max_comm x.holding]

/-- Settles O26: each check of R8 that fails is the one `checkActive` answers, and with none failing the
masked fields are written. -/
theorem updateWritesTheMaskedFields : Obligations.UpdateWritesTheMaskedFields := by
  intro tag body s hw refused
  have refuse {c : ReplyCode} (h : ownUpdate body s = s.refuse c) : refused c :=
    congrArg Host.Outcome.next (hw.handle_eq h)
  by_cases hlen : body.length ≠ 8
  · rw [if_pos hlen]
    exact refuse (by simp [ownUpdate, (parseUpdate_eq_none_iff body).2 hlen])
  rw [if_neg hlen]
  obtain ⟨r, hr⟩ := Option.ne_none_iff_exists'.1 (mt (parseUpdate_eq_none_iff body).1 hlen)
  refine ⟨r, hr, ?_⟩
  by_cases hstation : 511 < r.station
  · rw [if_pos hstation]
    exact refuse (ownUpdate_of_error hr (s.checkActive_badStation hstation))
  rw [if_neg hstation]
  split
  · next h => exact refuse (ownUpdate_of_error hr (State.checkActive_vacant hstation h))
  · next h => exact refuse (ownUpdate_of_error hr (State.checkActive_departing hstation h))
  · next h =>
    have hok := ownUpdate_of_ok hr (State.checkActive_active hstation h)
    rw [updatedRecord_eq] at hok
    exact congrArg Host.Outcome.next (hw.handle_eq hok)

/-! ### Both resets vacate the Station Table (R1) -/

/-- The reset state lists no station, so each reads as the vacant record. -/
theorem State.resetTo_station (s : State) (cause : ResetCause) (i : Nat) :
    (s.resetTo cause).station i = Station.vacantRecord := rfl

/-- The OK of a RESET_PART goes next when it waits and no notice is partly clocked out (R180). -/
theorem State.resetPartWaits_of_reply {s : State} {r : Reply} (hr : s.cli.reply = some r)
    (htype : r.type = 0xB1) (hcode : r.code = .ok)
    (hsending : ∀ x, s.cli.sending = some x → x.what = .reply) : s.resetPartWaits = true := by
  have hturn : s.cli.turn = some .reply := by
    unfold ControlLink.turn
    split
    · next x hx => rw [hsending x hx]
    · simp [hr]
  simp [State.resetPartWaits, ControlLink.replyLeaves, hturn, hr, htype, hcode]

/-- Settles O13: all three commands end in `resetTo`, which lists no station. -/
theorem resetVacatesEveryStation : Obligations.ResetVacatesEveryStation := by
  refine ⟨fun _ => rfl, fun s => ⟨s.resetTo .resetN, ?_, s.resetTo_station .resetN⟩,
    fun r s hr htype hcode hsending => ?_⟩
  · exact congrArg Host.Outcome.next s.releaseReset_assertReset
  · have hwaits := State.resetPartWaits_of_reply hr htype hcode hsending
    exact ⟨⟨_, congrArg Host.Outcome.next (if_pos hwaits), s.resetTo_station .resetPart⟩,
      ⟨_, congrArg Host.Outcome.next (if_pos hwaits), s.resetTo_station .resetPart⟩⟩

/-! ### DEPART (R12, R13)

The operations that follow a record's becoming DEPARTING change no record's state but by completing a
departure (R17). -/

/-- No record has changed its state from `s` to `t`, but some may have become VACANT. -/
def OnlyVacates (s t : State) : Prop :=
  ∀ i, (t.station i).state = (s.station i).state ∨ (t.station i).state = .vacant

namespace OnlyVacates

theorem refl (s : State) : OnlyVacates s s := fun _ => .inl rfl

theorem trans {s t u : State} (h : OnlyVacates s t) (k : OnlyVacates t u) : OnlyVacates s u := by
  intro i
  obtain hk | hk := k i
  · rw [hk]; exact h i
  · exact .inr hk

theorem foldl {α : Type} {f : State → α → State} (hf : ∀ s a, OnlyVacates s (f s a)) (l : List α)
    (s : State) : OnlyVacates s (l.foldl f s) := by
  induction l generalizing s with
  | nil => exact refl s
  | cons a l ih => exact (hf s a).trans (ih _)

/-! #### Primitive updates -/

theorem of_stations {s t : State} (h : t.stations = s.stations) : OnlyVacates s t := fun i =>
  .inl (by unfold State.station; rw [h])

theorem modPort (s : State) (p : PortNo) (f : Port → Port) : OnlyVacates s (s.modPort p f) :=
  of_stations (by simp)

theorem modStation {s : State} {i : Nat} {f : Station → Station}
    (hf : (f (s.station i)).state = (s.station i).state) : OnlyVacates s (s.modStation i f) := by
  intro j
  left
  rw [State.modStation_station]
  split
  · next h => rw [h, hf]
  · rfl

/-! #### Completions -/

theorem placeNotice (s : State) (b : NoticeBody) : OnlyVacates s (s.placeNotice b) :=
  of_stations (by rw [State.placeNotice_eq])

theorem completeDeparture (s : State) (i : Nat) : OnlyVacates s (s.completeDeparture i) := by
  refine trans (t := State.setStation _ i Station.vacantRecord) (fun j => ?_) (placeNotice _ _)
  rw [State.setStation_station]
  split
  · exact .inr rfl
  · exact modPort s _ _ j

theorem testDeparture (s : State) (i : Nat) : OnlyVacates s (s.testDeparture i) := by
  unfold State.testDeparture
  split
  · exact completeDeparture s i
  · exact refl s

theorem freeSlot (s : State) (k : Nat) : OnlyVacates s (s.freeSlot k) :=
  trans (t := s.modStation (s.slot k).station fun r => { r with unreported := r.unreported - 1 })
    (modStation rfl) (of_stations rfl)

theorem formNotice (s : State) : OnlyVacates s s.formNotice :=
  (((of_stations rfl : OnlyVacates s { s.appendNotice _ with done := s.done.drop 16 }).trans
    (foldl freeSlot _ _)).trans (foldl testDeparture _ _)).trans (of_stations rfl)

theorem testCompletion (s : State) : OnlyVacates s s.testCompletion := by
  unfold State.testCompletion
  generalize s.done.length = n
  induction n generalizing s with
  | zero => exact refl s
  | succ n ih =>
    unfold State.formWhile
    split
    · exact (formNotice s).trans (ih _)
    · exact refl s

theorem joinDone (s : State) (k : Nat) : OnlyVacates s (s.joinDone k) := by
  refine trans (t := s.appendDone k) (of_stations ?_) (testCompletion _)
  unfold State.appendDone
  dsimp only
  split <;> rfl

/-! #### Memberships -/

theorem wake (s : State) (p : PortNo) : OnlyVacates s (s.wake p) := modPort s p _

theorem retestMain (s : State) (i : Nat) (zero : Bool) : OnlyVacates s (s.retestMain i zero) := by
  unfold State.retestMain
  dsimp only
  split <;> split
  · exact refl s
  · exact (modPort s _ _).trans (wake _ _)
  · exact (modPort s _ _).trans (modStation rfl)
  · exact refl s

theorem retestExp (s : State) (i : Nat) : OnlyVacates s (s.retestExp i) := by
  unfold State.retestExp
  dsimp only
  split <;> split
  · exact refl s
  · exact (modPort s _ _).trans (wake _ _)
  · exact modPort s _ _
  · exact refl s

theorem retestUl (s : State) (i : Nat) : OnlyVacates s (s.retestUl i) := by
  unfold State.retestUl
  dsimp only
  split <;> split
  · exact refl s
  · exact (modPort s _ _).trans (wake _ _)
  · exact (modPort s _ _).trans (modStation rfl)
  · exact refl s

theorem sendTim (s : State) (p : PortNo) (k : TimKind) (a : Nat) :
    OnlyVacates s (s.sendTim p k a) := by
  unfold State.sendTim
  split
  · exact modPort s p _
  · exact refl s

theorem retestTis (s : State) (i : Nat) : OnlyVacates s (s.retestTis i) := by
  unfold State.retestTis
  dsimp only
  split <;> split
  · exact refl s
  · exact (modPort s _ _).trans (sendTim _ _ _ _)
  · exact (modPort s _ _).trans (sendTim _ _ _ _)
  · exact refl s

theorem setPs (s : State) (i : Nat) (ps : PsState) (a : Nat) (d : Word) :
    OnlyVacates s (s.setPs i ps a d) := by
  have hclear : OnlyVacates s
      (if (s.station i).ps = .service ∧ ps ≠ .service then s.clearEos i else s) := by
    split
    · exact modPort s _ _
    · exact refl s
  unfold State.setPs
  dsimp only
  exact (((hclear.trans (modStation rfl)).trans (retestMain _ _ _)).trans (retestExp _ _)).trans
    (retestUl _ _)

/-! #### Flushing -/

theorem goneEvents (s : State) (i : Nat) (t : Tier) (zero : Bool) :
    OnlyVacates s (s.goneEvents i t zero) := by
  have hexp : OnlyVacates s
      (if t = .expedited ∧ (s.station i).expFifo = [] then s.retestExp i else s) := by
    split
    · exact retestExp s i
    · exact refl s
  unfold State.goneEvents
  dsimp only
  split
  · exact (hexp.trans (retestMain _ _ _)).trans (retestTis _ _)
  · exact hexp

theorem popHead (s : State) (i : Nat) (t : Tier) : OnlyVacates s (s.popHead i t) :=
  modStation (by cases t <;> rfl)

theorem markDone (s : State) (i k : Nat) (st : CompletionStatus) :
    OnlyVacates s (s.markDone i k st) :=
  trans (t := s.modSlot k _) (of_stations rfl) (modStation rfl)

theorem flushTier (s : State) (i : Nat) (t : Tier) : OnlyVacates s (s.flushTier i t) :=
  foldl (fun s k => (((popHead s i t).trans (markDone _ i k _)).trans (goneEvents _ i t _)).trans
    (joinDone _ k)) _ s

end OnlyVacates

/-- Once the record is DEPARTING, the rest of a DEPART changes no record's state but by vacating (R13). -/
theorem onlyVacates_depart (s : State) (i : Nat) :
    OnlyVacates (s.modStation i fun r => { r with state := .departing }) (s.depart i) := by
  have hrot := ((OnlyVacates.retestMain (s.modStation i fun r => { r with state := .departing }) i
    true).trans (OnlyVacates.retestExp _ i)).trans (OnlyVacates.retestUl _ i)
  have hflush := ((hrot.trans (OnlyVacates.modStation (i := i) (f := fun r => { r with demand := 0 })
    rfl)).trans (OnlyVacates.flushTier _ i .expedited)).trans (OnlyVacates.flushTier _ i .standard)
  exact ((hflush.trans (OnlyVacates.setPs _ i .awake 0 0)).trans (OnlyVacates.retestTis _ i)).trans
    (OnlyVacates.testDeparture _ i)

/-- A station that departs is not ACTIVE afterwards. -/
theorem State.depart_state_ne_active (s : State) (i : Nat) :
    ((s.depart i).station i).state ≠ .active := by
  obtain h | h := onlyVacates_depart s i i
  · simp [h]
  · simp [h]

theorem ownDepart_of_error {body : List Byte} {s : State} {i : Nat} {c : ReplyCode}
    (hi : parseStation body = some i) (hc : s.checkActive i = some c) :
    ownDepart body s = s.refuse c := by simp [ownDepart, hi, hc]

theorem ownDepart_of_ok {body : List Byte} {s : State} {i : Nat}
    (hi : parseStation body = some i) (hc : s.checkActive i = none) :
    ownDepart body s = ⟨s.depart i, .ok, .nothing⟩ := by simp [ownDepart, hi, hc]

/-- Settles O27: each check of R12 that fails is the one `checkActive` answers, and a DEPART that is taken
leaves the station DEPARTING or VACANT. -/
theorem departIsTakenForActiveStationsOnly : Obligations.DepartIsTakenForActiveStationsOnly := by
  intro tag body s hw refused
  have refuse {c : ReplyCode} (h : ownDepart body s = s.refuse c) : refused c :=
    congrArg Host.Outcome.next (hw.handle_eq h)
  by_cases hlen : body.length ≠ 2
  · rw [if_pos hlen]
    exact refuse (by simp [ownDepart, (parseStation_eq_none_iff body).2 hlen])
  rw [if_neg hlen]
  obtain ⟨i, hi⟩ := Option.ne_none_iff_exists'.1 (mt (parseStation_eq_none_iff body).1 hlen)
  refine ⟨i, hi, ?_⟩
  split_ifs with hstation
  · exact refuse (ownDepart_of_error hi (s.checkActive_badStation hstation))
  split
  · next h => exact refuse (ownDepart_of_error hi (State.checkActive_vacant hstation h))
  · next h => exact refuse (ownDepart_of_error hi (State.checkActive_departing hstation h))
  · next h =>
    have hok := ownDepart_of_ok hi (State.checkActive_active hstation h)
    exact ⟨_, congrArg Host.Outcome.next (hw.handle_eq hok), State.replied_reply .., by
      simpa using s.depart_state_ne_active i⟩

end Sys2Proof.Machine

/-! SUPPORT. ENQUEUE (R26 to R29): the reader of its body, by the count and the length; the tests of one entry
as a verdict on three numbers, and how an accepted entry moves those numbers; the longest accepted run of the
entries. Then the Descriptor Pool's requests. -/

namespace Sys2Proof.Machine

/-! ### The body of an ENQUEUE (R26 check 1) -/

theorem parseDescriptors_eq_none_iff (n : Nat) (l : List Byte) :
    parseDescriptors n l = none ↔ l.length ≠ 7 * n := by
  fun_induction parseDescriptors n l with
  | case1 => simp
  | case2 => simp
  | case3 n h0 h1 h2 h3 l0 l1 fl rest ih =>
    rw [Option.map_eq_none_iff, ih]
    simp only [List.length_cons]
    omega
  | case4 n l hl =>
    simp only [true_iff]
    intro hlen
    match l, hlen with
    | _ :: _ :: _ :: _ :: _ :: _ :: _ :: _, _ => exact hl _ _ _ _ _ _ _ _ rfl

theorem length_of_parseDescriptors {n : Nat} {l : List Byte} {ds : List Descriptor}
    (h : parseDescriptors n l = some ds) : ds.length = n := by
  fun_induction parseDescriptors n l generalizing ds with
  | case1 => simp_all
  | case2 => contradiction
  | case3 n h0 h1 h2 h3 l0 l1 fl rest ih =>
    obtain ⟨tail, htail, rfl⟩ := Option.map_eq_some_iff.1 h
    simp [ih htail]
  | case4 => contradiction

theorem parseEnqueue_of_short {body : List Byte} (h : body.length < 3) : parseEnqueue body = none := by
  match body, h with
  | [], _ | [_], _ | [_, _], _ => rfl

theorem parseEnqueue_cons (b0 b1 count : Byte) (rest : List Byte) :
    parseEnqueue (b0 :: b1 :: count :: rest) =
      if count.toNat = 0 ∨ 16 < count.toNat then none
      else (parseDescriptors count.toNat rest).map (⟨le2 b0 b1, ·⟩) := rfl

theorem parseEnqueue_cons_eq_none_iff (b0 b1 count : Byte) (rest : List Byte) :
    parseEnqueue (b0 :: b1 :: count :: rest) = none ↔
      count.toNat = 0 ∨ 16 < count.toNat ∨ rest.length ≠ 7 * count.toNat := by
  rw [parseEnqueue_cons]
  split_ifs with hcount
  · simp only [true_iff]
    exact hcount.imp_right .inl
  · rw [Option.map_eq_none_iff, parseDescriptors_eq_none_iff]
    tauto

theorem parseEnqueue_cons_eq_some {b0 b1 count : Byte} {rest : List Byte} {r : EnqueueReq}
    (h : parseEnqueue (b0 :: b1 :: count :: rest) = some r) :
    r.station = b0.toNat + 256 * b1.toNat ∧ r.entries.length = count.toNat := by
  rw [parseEnqueue_cons] at h
  split_ifs at h
  obtain ⟨ds, hds, rfl⟩ := Option.map_eq_some_iff.1 h
  exact ⟨rfl, length_of_parseDescriptors hds⟩

/-! ### What the tests of an entry look at (R27) -/

/-- R27's verdict on an entry: the tests of `State.testEntry`, on the station's holding and cap and the
length of the free stack (`State.testEntry_eq`). -/
def entryVerdict (holding cap free : Nat) (d : Descriptor) : Option ReplyCode :=
  if d.length = 0 ∨ 8000 < d.length then some .badFrameLength
  else if cap ≤ holding then some .queueFull
  else if free = 0 then some .poolEmpty
  else none

theorem State.testEntry_eq (s : State) (i : Nat) (d : Descriptor) : s.testEntry i d =
    entryVerdict (s.station i).holding (s.station i).queueCap s.freeStack.length d := by
  simp [State.testEntry, entryVerdict]

theorem entryVerdict_eq_none_iff {holding cap free : Nat} {d : Descriptor} :
    entryVerdict holding cap free d = none ↔
      1 ≤ d.length ∧ d.length ≤ 8000 ∧ holding < cap ∧ 0 < free := by
  unfold entryVerdict
  split_ifs <;> simp <;> omega

/-- The code of a failed verdict is that of the first test that fails; POOL_EMPTY says that no slot is free. -/
theorem eq_of_entryVerdict_eq_some {holding cap free : Nat} {d : Descriptor} {c : ReplyCode}
    (h : entryVerdict holding cap free d = some c) :
    c = (if d.length = 0 ∨ 8000 < d.length then .badFrameLength
      else if cap ≤ holding then .queueFull else .poolEmpty) ∧ (c = .poolEmpty → free = 0) := by
  unfold entryVerdict at h
  split_ifs at h ⊢ with hlength hcap hfree <;> cases h
  · exact ⟨rfl, nofun⟩
  · exact ⟨rfl, nofun⟩
  · exact ⟨rfl, fun _ => hfree⟩

/-- Nothing that R27 tests has changed from `s` to `t`: holdings, caps and the free stack. -/
structure SameRoom (s t : State) : Prop where
  free : t.freeStack = s.freeStack
  holding : ∀ i, (t.station i).holding = (s.station i).holding
  cap : ∀ i, (t.station i).queueCap = (s.station i).queueCap

namespace SameRoom

theorem refl (s : State) : SameRoom s s := ⟨rfl, fun _ => rfl, fun _ => rfl⟩

theorem trans {s t u : State} (h : SameRoom s t) (k : SameRoom t u) : SameRoom s u :=
  ⟨k.free.trans h.free, fun i => (k.holding i).trans (h.holding i), fun i => (k.cap i).trans (h.cap i)⟩

theorem modPort (s : State) (p : PortNo) (f : Port → Port) : SameRoom s (s.modPort p f) :=
  ⟨by simp, by simp, by simp⟩

theorem modStation {s : State} {i : Nat} {f : Station → Station}
    (hh : (f (s.station i)).holding = (s.station i).holding)
    (hc : (f (s.station i)).queueCap = (s.station i).queueCap) : SameRoom s (s.modStation i f) := by
  refine ⟨rfl, fun j => ?_, fun j => ?_⟩ <;> rw [State.modStation_station]
  · split
    · next h => rw [h, hh]
    · rfl
  · split
    · next h => rw [h, hc]
    · rfl

theorem retestMain (s : State) (i : Nat) (zero : Bool) : SameRoom s (s.retestMain i zero) := by
  unfold State.retestMain
  dsimp only
  split <;> split
  · exact refl s
  · exact (modPort s _ _).trans (modPort _ _ _)
  · exact (modPort s _ _).trans (modStation rfl rfl)
  · exact refl s

theorem retestExp (s : State) (i : Nat) : SameRoom s (s.retestExp i) := by
  unfold State.retestExp
  dsimp only
  split <;> split
  · exact refl s
  · exact (modPort s _ _).trans (modPort _ _ _)
  · exact modPort s _ _
  · exact refl s

theorem sendTim (s : State) (p : PortNo) (k : TimKind) (a : Nat) : SameRoom s (s.sendTim p k a) := by
  unfold State.sendTim
  split
  · exact modPort s p _
  · exact refl s

theorem retestTis (s : State) (i : Nat) : SameRoom s (s.retestTis i) := by
  unfold State.retestTis
  dsimp only
  split <;> split
  · exact refl s
  · exact (modPort s _ _).trans (sendTim _ _ _ _)
  · exact (modPort s _ _).trans (sendTim _ _ _ _)
  · exact refl s

/-- The events of a slot's joining a tier take no room: they move memberships alone (R30). -/
theorem presentEvents (s : State) (i : Nat) (t : Tier) : SameRoom s (s.presentEvents i t) := by
  have hexp : SameRoom s
      (if t = .expedited ∧ (s.station i).expFifo.length = 1 then s.retestExp i else s) := by
    split
    · exact retestExp s i
    · exact refl s
  unfold State.presentEvents
  dsimp only
  split
  · exact (hexp.trans (retestMain _ _ _)).trans (retestTis _ _)
  · exact hexp

end SameRoom

@[simp] theorem Station.setFifo_queueCap (r : Station) (t : Tier) (l : List Nat) :
    (r.setFifo t l).queueCap = r.queueCap := by cases t <;> rfl

/-- An accepted entry raises the holding by one and takes one slot from the free stack (R28). -/
theorem State.acceptEntry_room {s : State} {i : Nat} {d : Descriptor} (h : 0 < s.freeStack.length) :
    ((s.acceptEntry i d).station i).holding = (s.station i).holding + 1 ∧
    ((s.acceptEntry i d).station i).queueCap = (s.station i).queueCap ∧
    (s.acceptEntry i d).freeStack.length = s.freeStack.length - 1 := by
  obtain ⟨k, rest, hfree⟩ := List.exists_cons_of_length_pos h
  have hroom := SameRoom.presentEvents
    (({ s with freeStack := rest }.setSlot k (s.queuedSlot i d)).modStation i fun r =>
      { r.setFifo d.tier (r.fifo d.tier ++ [k]) with holding := r.holding + 1 }) i d.tier
  simp only [State.acceptEntry, hfree, hroom.free, hroom.holding, hroom.cap]
  simp

/-! ### The longest accepted run of entries (R27, R29) -/

/-- The first `a` entries pass, each seeing those before it, and `first` is the code the next one meets, OK
when there is none. -/
structure AcceptedRun (holding cap free : Nat) (ds : List Descriptor) (a : Nat)
    (first : ReplyCode) : Prop where
  passed : ∀ j < a, ∃ d, ds[j]? = some d ∧ entryVerdict (holding + j) cap (free - j) d = none
  failed : ∀ d, ds[a]? = some d → entryVerdict (holding + a) cap (free - a) d = some first
  ended : ds[a]? = none → first = .ok

namespace AcceptedRun

variable {holding cap free a : Nat} {d : Descriptor} {ds : List Descriptor} {first : ReplyCode}

theorem nil (holding cap free : Nat) : AcceptedRun holding cap free [] 0 .ok :=
  ⟨by simp, by simp, fun _ => rfl⟩

theorem stop (h : entryVerdict holding cap free d = some first) :
    AcceptedRun holding cap free (d :: ds) 0 first :=
  ⟨by simp, by simpa using h, by simp⟩

theorem cons (hd : entryVerdict holding cap free d = none)
    (h : AcceptedRun (holding + 1) cap (free - 1) ds a first) :
    AcceptedRun holding cap free (d :: ds) (a + 1) first where
  passed
    | 0, _ => ⟨d, rfl, hd⟩
    | j + 1, hj => by
      simpa [Nat.add_assoc, Nat.sub_sub, Nat.add_comm 1 j] using h.passed j (Nat.lt_of_succ_lt_succ hj)
  failed := by simpa [Nat.add_assoc, Nat.sub_sub, Nat.add_comm 1 a] using h.failed
  ended := h.ended

theorem fits (h : AcceptedRun holding cap free ds a first) {j : Nat} (hj : j < a) :
    ∃ d, ds[j]? = some d ∧ 1 ≤ d.length ∧ d.length ≤ 8000 ∧ holding + j < cap ∧ j < free := by
  obtain ⟨d, hd, hv⟩ := h.passed j hj
  obtain ⟨hlow, hhigh, hcap, hfree⟩ := entryVerdict_eq_none_iff.1 hv
  exact ⟨d, hd, hlow, hhigh, hcap, Nat.lt_of_sub_pos hfree⟩

/-- The accepted entries each took a free slot. -/
theorem le_free (h : AcceptedRun holding cap free ds a first) : a ≤ free := by
  by_contra hlt
  obtain ⟨d, -, -, -, -, hfree⟩ := h.fits (Nat.lt_of_not_le hlt)
  exact Nat.lt_irrefl _ hfree

theorem free_eq (h : AcceptedRun holding cap free ds a .poolEmpty) : free = a := by
  cases hd : ds[a]? with
  | none => exact absurd (h.ended hd) (by decide)
  | some d =>
    have hzero := (eq_of_entryVerdict_eq_some (h.failed d hd)).2 rfl
    exact Nat.le_antisymm (Nat.sub_eq_zero_iff_le.1 hzero) h.le_free

end AcceptedRun

/-- `acceptEntries` finds the longest accepted run, counts it on from `n`, and changes nothing when it is
empty. -/
theorem acceptEntries_spec (i : Nat) (ds : List Descriptor) (n : Nat) (s : State) :
    ∃ t a first, acceptEntries i ds n s = (t, n + a, first) ∧
      AcceptedRun (s.station i).holding (s.station i).queueCap s.freeStack.length ds a first ∧
      (a = 0 → t = s) := by
  induction ds generalizing n s with
  | nil => exact ⟨s, 0, .ok, rfl, .nil _ _ _, fun _ => rfl⟩
  | cons d ds ih =>
    cases hv : s.testEntry i d with
    | some c =>
      refine ⟨s, 0, c, by simp [acceptEntries, hv], .stop ?_, fun _ => rfl⟩
      rw [← s.testEntry_eq, hv]
    | none =>
      obtain ⟨t, a, first, heq, hrun, -⟩ := ih (n + 1) (s.acceptEntry i d)
      rw [s.testEntry_eq] at hv
      obtain ⟨-, -, -, hfree⟩ := entryVerdict_eq_none_iff.1 hv
      obtain ⟨hholding, hcap, hlen⟩ := State.acceptEntry_room (i := i) (d := d) hfree
      rw [hholding, hcap, hlen] at hrun
      refine ⟨t, a + 1, first, ?_, hrun.cons hv, by simp⟩
      simp only [acceptEntries, s.testEntry_eq, hv, heq]
      rw [Nat.add_assoc, Nat.add_comm 1 a]

/-! ### ENQUEUE (R26, R27, R29) -/

theorem ownEnqueue_of_none {body : List Byte} (s : State) (h : parseEnqueue body = none) :
    ownEnqueue body s = s.refuseEnqueue .badRecord := by simp [ownEnqueue, h]

theorem ownEnqueue_of_error {body : List Byte} {s : State} {r : EnqueueReq} {c : ReplyCode}
    (hr : parseEnqueue body = some r) (hc : s.checkActive r.station = some c) :
    ownEnqueue body s = s.refuseEnqueue c := by simp [ownEnqueue, hr, hc]

theorem ownEnqueue_of_ok {body : List Byte} {s t : State} {r : EnqueueReq} {n : Nat} {first : ReplyCode}
    (hr : parseEnqueue body = some r) (hc : s.checkActive r.station = none)
    (ha : acceptEntries r.station r.entries 0 s = (t, n, first)) :
    ownEnqueue body s = ⟨if n = 0 then t else
        (t.wake (s.portOfStation r.station)).decideIfWoken (s.portOfStation r.station)
          (s.port (s.portOfStation r.station)).state,
      enqueueStatus n first, .enqueue n first⟩ := by simp [ownEnqueue, hr, hc, ha]

/-- With nothing accepted the reply's status is the first failure itself (R29). -/
@[simp] theorem enqueueStatus_zero (first : ReplyCode) : enqueueStatus 0 first = first := by
  by_cases h : first = .ok <;> simp [enqueueStatus, h]

/-- Settles O29: each check of R26 that fails is the code of the refusal; with none failing the entries are
taken up to the longest accepted run, which R29 reports. -/
theorem enqueueChecksAndCountsInOrder : Obligations.EnqueueChecksAndCountsInOrder := by
  intro tag body s hw refused
  have refuse {c : ReplyCode} (h : ownEnqueue body s = s.refuseEnqueue c) : refused c :=
    congrArg Host.Outcome.next (hw.handle_eq h)
  refine ⟨fun hshort => refuse (ownEnqueue_of_none s (parseEnqueue_of_short hshort)), ?_⟩
  rintro b0 b1 count rest rfl
  split_ifs with hbad
  · exact refuse (ownEnqueue_of_none s ((parseEnqueue_cons_eq_none_iff b0 b1 count rest).2 hbad))
  obtain ⟨r, hr⟩ := Option.ne_none_iff_exists'.1
    (mt (parseEnqueue_cons_eq_none_iff b0 b1 count rest).1 hbad)
  obtain ⟨hindex, hcount⟩ := parseEnqueue_cons_eq_some hr
  refine ⟨r, hr, hindex, hcount, ?_⟩
  dsimp only
  split_ifs with hstation
  · exact refuse (ownEnqueue_of_error hr (s.checkActive_badStation hstation))
  split
  · next h => exact refuse (ownEnqueue_of_error hr (State.checkActive_vacant hstation h))
  · next h => exact refuse (ownEnqueue_of_error hr (State.checkActive_departing hstation h))
  next h =>
  obtain ⟨t, a, first, heq, hrun, hsame⟩ := acceptEntries_spec r.station r.entries 0 s
  rw [Nat.zero_add] at heq
  have hown := ownEnqueue_of_ok hr (State.checkActive_active hstation h) heq
  refine ⟨_, a, first, congrArg Host.Outcome.next (hw.handle_eq hown), fun j hj => hrun.fits hj, ?_,
    ?_, rfl, ?_⟩
  · split
    · next hd => exact hrun.ended hd
    · next d hd => exact (eq_of_entryVerdict_eq_some (hrun.failed d hd)).1
  · rintro rfl
    exact hrun.free_eq
  · rintro rfl
    rw [if_pos rfl, hsame rfl, enqueueStatus_zero]
    rfl

end Sys2Proof.Machine

/-! SUPPORT. LOAD_RATES (R46, R47): the reader of its body, by the count and the length; the table after entries
are written to consecutive codes, code by code; the decisions of a port that a request has woken. Then the
request itself. -/

namespace Sys2Proof.Machine

/-! ### The body of a LOAD_RATES (R46 check 1) -/

/-- Rate entries are read exactly where the bytes are 7 for each, and then as many as announced. -/
theorem map_length_parseRateEntries (n : Nat) (l : List Byte) :
    (parseRateEntries n l).map List.length = if l.length = 7 * n then some n else none := by
  fun_induction parseRateEntries n l with
  | case1 => rfl
  | case2 => rfl
  | case3 n r0 r1 g0 g1 f0 f1 en rest ih =>
    have hcons (e : RateEntry) : List.length ∘ (e :: ·) = (· + 1) ∘ List.length := rfl
    rw [Option.map_map, hcons, ← Option.map_map, ih]
    have hlen : (r0 :: r1 :: g0 :: g1 :: f0 :: f1 :: en :: rest).length = 7 * (n + 1) ↔
        rest.length = 7 * n := by simp only [List.length_cons]; omega
    simp only [hlen]
    split_ifs <;> rfl
  | case4 n l hl =>
    rw [if_neg]
    · rfl
    intro hlen
    match l, hlen with
    | _ :: _ :: _ :: _ :: _ :: _ :: _ :: _, _ => exact hl _ _ _ _ _ _ _ _ rfl

theorem parseLoadRates_of_short {body : List Byte} (h : body.length < 3) : parseLoadRates body = none := by
  match body, h with
  | [], _ | [_], _ | [_, _], _ => rfl

theorem parseLoadRates_cons (b0 b1 count : Byte) (rest : List Byte) :
    parseLoadRates (b0 :: b1 :: count :: rest) =
      if count.toNat = 0 ∨ 31 < count.toNat then none
      else (parseRateEntries count.toNat rest).map (⟨b0.toNat, b1.toNat, ·⟩) := rfl

theorem parseLoadRates_cons_eq_none {b0 b1 count : Byte} {rest : List Byte}
    (h : count.toNat = 0 ∨ 31 < count.toNat ∨ rest.length ≠ 7 * count.toNat) :
    parseLoadRates (b0 :: b1 :: count :: rest) = none := by
  rw [parseLoadRates_cons]
  split_ifs with hcount
  · rfl
  · have hlen : rest.length ≠ 7 * count.toNat := by tauto
    have hmap := map_length_parseRateEntries count.toNat rest
    rw [if_neg hlen, Option.map_eq_none_iff] at hmap
    rw [hmap, Option.map_none]

theorem exists_parseLoadRates_cons {b0 b1 count : Byte} {rest : List Byte}
    (h : ¬ (count.toNat = 0 ∨ 31 < count.toNat ∨ rest.length ≠ 7 * count.toNat)) :
    ∃ entries, parseLoadRates (b0 :: b1 :: count :: rest) = some ⟨b0.toNat, b1.toNat, entries⟩ ∧
      entries.length = count.toNat := by
  push Not at h
  obtain ⟨hzero, hmany, hlen⟩ := h
  have hmap := map_length_parseRateEntries count.toNat rest
  rw [if_pos hlen, Option.map_eq_some_iff] at hmap
  obtain ⟨entries, hparse, hcount⟩ := hmap
  exact ⟨entries, by simp [parseLoadRates_cons, hzero, Nat.not_lt.2 hmany, hparse], hcount⟩

/-! ### Entries at consecutive codes (R47) -/

theorem clampRate_eq (e : RateEntry) : clampRate e =
    ⟨max 2 (min 4800 e.rate), min 1023 e.grantOverhead, min 255 e.frameOverhead, e.enabled⟩ := by
  simp [clampRate, clamp]

/-- Each code from `first` on reads as the clamped entry at its place, every other code as before. -/
theorem get_writeRates (first : Nat) (entries : List RateEntry) (t : Table RateEntry) (code : Nat) :
    Table.get RateEntry.disabledEntry (writeRates first entries t) code =
      (if first ≤ code then entries[code - first]? else none).elim
        (Table.get RateEntry.disabledEntry t code) clampRate := by
  induction entries generalizing first t with
  | nil => simp [writeRates]
  | cons e es ih =>
    rw [writeRates, ih, Table.get_set]
    obtain hlt | rfl | hgt := Nat.lt_trichotomy code first
    · simp [Nat.not_le.2 hlt, Nat.not_le.2 (Nat.lt_succ_of_lt hlt), hlt.ne]
    · simp
    · have hplace : code - first = code - (first + 1) + 1 := by omega
      simp [hplace, hgt.le, hgt.ne', Nat.succ_le_of_lt hgt]

/-! ### Decisions of a woken port (R81, R116) -/

theorem State.decideIfWoken_of_ne {before : PortState} (s : State) (p : PortNo) (h : before ≠ .suspended) :
    s.decideIfWoken p before = s := if_neg fun hw => h hw.1

theorem State.decideIfWoken_of_running {s : State} {p : PortNo} (h : (s.port p).state = .running) :
    s.decideIfWoken p .suspended = s.opportunity p := if_pos ⟨rfl, h⟩

/-- A held port makes no decision (R116). -/
theorem State.opportunity_of_hold {s : State} {p : PortNo} (h : (s.port p).hold = true) :
    s.opportunity p = s :=
  State.Decides.eq_self (by simp [Port.hasOpportunity, h]) (s.opportunity_decides p)

/-! ### LOAD_RATES (R46, R47) -/

theorem ownLoadRates_of_none {body : List Byte} (s : State) (h : parseLoadRates body = none) :
    ownLoadRates body s = s.refuse .badRecord := by simp [ownLoadRates, h]

theorem ownLoadRates_of_badPort {body : List Byte} {r : LoadRatesReq} (s : State)
    (hr : parseLoadRates body = some r) (hp : portOf r.port = none) :
    ownLoadRates body s = s.refuse .badRecord := by simp [ownLoadRates, hr, hp]

theorem ownLoadRates_of_badCodes {body : List Byte} {r : LoadRatesReq} (s : State)
    (hr : parseLoadRates body = some r) (hc : r.first = 0 ∨ 31 < r.first + r.entries.length - 1) :
    ownLoadRates body s = s.refuse .badRecord := by
  cases hp : portOf r.port <;> simp [ownLoadRates, hr, hp, hc]

/-- The port with the entries of a LOAD_RATES written to its table (R47). -/
def Port.loaded (q : Port) (r : LoadRatesReq) : Port :=
  { q with rates := writeRates r.first r.entries q.rates }

section
variable {body : List Byte} {s : State} {r : LoadRatesReq} {p : PortNo}
  (hr : parseLoadRates body = some r) (hp : portOf r.port = some p)
  (hc : ¬ (r.first = 0 ∨ 31 < r.first + r.entries.length - 1))
include hr hp hc

/-- What an accepted LOAD_RATES does: the entries are written, and an enabled one wakes the port. -/
theorem ownLoadRates_of_ok :
    ownLoadRates body s = ⟨if r.entries.any RateEntry.enabled then
        ((s.setPort p ((s.port p).loaded r)).wake p).decideIfWoken p (s.port p).state
      else s.setPort p ((s.port p).loaded r),
      .ok, .enabledCodes ((s.port p).loaded r).enabledCodes.length⟩ := by
  simp [ownLoadRates, hr, hp, hc, State.modPort, Port.loaded]

/-- Without an enabled entry, or on a port that is not SUSPENDED, the table alone changes. -/
theorem ownLoadRates_of_unwoken
    (h : (s.port p).state ≠ .suspended ∨ ∀ e ∈ r.entries, e.enabled = false) :
    ownLoadRates body s = ⟨s.setPort p ((s.port p).loaded r), .ok,
      .enabledCodes ((s.port p).loaded r).enabledCodes.length⟩ := by
  rw [ownLoadRates_of_ok hr hp hc]
  obtain hstate | hdisabled := h
  · have hloaded : ((s.setPort p ((s.port p).loaded r)).port p).state ≠ .suspended := by
      simpa [Port.loaded] using hstate
    rw [State.wake_idle hloaded, State.decideIfWoken_of_ne _ _ hstate, ite_self]
  · rw [if_neg (by simpa using hdisabled)]

/-- An enabled entry returns a SUSPENDED port to RUNNING, and its decisions follow (R47, R81, R116). -/
theorem ownLoadRates_of_woken
    (hstate : (s.port p).state = .suspended) (henabled : ∃ e ∈ r.entries, e.enabled = true) :
    ownLoadRates body s = ⟨(s.setPort p { (s.port p).loaded r with
        state := .running, suspendReason := .none, resumeTimer := none }).opportunity p, .ok,
      .enabledCodes ((s.port p).loaded r).enabledCodes.length⟩ := by
  have hloaded : ((s.setPort p ((s.port p).loaded r)).port p).state = .suspended := by
    simpa [Port.loaded] using hstate
  rw [ownLoadRates_of_ok hr hp hc, if_pos (by simpa using henabled), State.wake_suspended hloaded, hstate,
    State.decideIfWoken_of_running (by simp)]
  simp

end

/-- A waiting LOAD_RATES is answered as its owner says (R179). -/
theorem State.Waits.exec_loadRates {s t : State} {tag : Byte} {body : List Byte} {c : ReplyCode}
    {f : ReplyFields} (hw : s.Waits 0x02 tag body) (h : ownLoadRates body s = ⟨t, c, f⟩) :
    exec .loadRates s = .next (t.replied 0x82 tag c f) :=
  congrArg Host.Outcome.next (hw.handle_eq h)

/-- Settles O20: each check of R46 that fails is the one `ownLoadRates` answers; with none failing the table is
`writeRates` of the entries, and a woken port makes the decisions of `State.opportunity`. -/
theorem loadRatesWritesConsecutiveCodes : Obligations.LoadRatesWritesConsecutiveCodes := by
  intro tag body s hw refused
  have refuse (h : ownLoadRates body s = s.refuse .badRecord) : refused := hw.exec_loadRates h
  refine ⟨fun hshort => refuse (ownLoadRates_of_none s (parseLoadRates_of_short hshort)), ?_⟩
  rintro b0 b1 count rest rfl
  split_ifs with hbad
  · exact refuse (ownLoadRates_of_none s (parseLoadRates_cons_eq_none hbad))
  obtain ⟨entries, hr, hcount⟩ := exists_parseLoadRates_cons (b0 := b0) (b1 := b1) hbad
  refine ⟨_, hr, rfl, rfl, hcount, ?_⟩
  split_ifs with hport hcodes
  · exact refuse (ownLoadRates_of_badPort s hr (portOf_eq_none hport))
  · exact refuse (ownLoadRates_of_badCodes s hr hcodes)
  obtain ⟨p, hp⟩ := exists_portOf (Nat.le_of_not_lt hport)
  refine ⟨p, writeRates b1.toNat entries (s.port p).rates, _, hp, fun code => ?_, rfl,
    fun h => hw.exec_loadRates (ownLoadRates_of_unwoken hr hp hcodes h),
    fun hstate henabled => ?_⟩
  · refine (get_writeRates b1.toNat entries (s.port p).rates code).trans ?_
    generalize (if b1.toNat ≤ code then entries[code - b1.toNat]? else none) = written
    cases written with
    | none => rfl
    | some e => exact clampRate_eq e
  · have hanswer := hw.exec_loadRates (ownLoadRates_of_woken hr hp hcodes hstate henabled)
    refine ⟨fun hhold => ?_, _, State.opportunity_decides _ p, hanswer, ?_⟩
    · rwa [State.opportunity_of_hold (by simpa [Port.loaded] using hhold)] at hanswer
    · rw [State.opportunity_rates]; simp

end Sys2Proof.Machine

/-! SUPPORT. CONFIGURE_PORT (R111, R112): the reader of its body, by the length; the stored values, with the
rounding of the aggregate limit (R45) said by its bounds; the live port states. Then the request itself. -/

namespace Sys2Proof.Machine

/-! ### The body of a CONFIGURE_PORT -/

theorem parseConfigure_eq_none_iff (body : List Byte) : parseConfigure body = none ↔ body.length ≠ 20 := by
  unfold parseConfigure
  split
  · simp
  · next h =>
    simp only [true_iff]
    intro hl
    match body, hl with
    | [_, _, _, _, _, _, _, _, _, _, _, _, _, _, _, _, _, _, _, _], _ =>
      exact h _ _ _ _ _ _ _ _ _ _ _ _ _ _ _ _ _ _ _ _ rfl

theorem exists_parseConfigure {body : List Byte} (h : body.length = 20) : ∃ r, parseConfigure body = some r :=
  Option.ne_none_iff_exists'.1 fun hnone => (parseConfigure_eq_none_iff body).1 hnone h

/-! ### The aggregate limit as stored (R45) -/

/-- No limit, and one past the greatest, is stored as the greatest. -/
theorem roundAggLimit_of_outside {n : Nat} (h : n = 0 ∨ 64 < n) : roundAggLimit n = 64 :=
  if_pos (h.imp_right Nat.le_of_lt)

theorem roundAggLimit_of_mem : ∀ n ∈ [1, 2, 4, 8, 16, 32, 64], roundAggLimit n = n := by decide

/-- Below 64 the stored limit is the power of two that the limit lies at or above and less than twice. -/
theorem roundAggLimit_bounds {n : Nat} (h0 : n ≠ 0) (h64 : n < 64) :
    roundAggLimit n ∈ [1, 2, 4, 8, 16, 32] ∧ roundAggLimit n ≤ n ∧ n < 2 * roundAggLimit n := by
  unfold roundAggLimit
  rw [if_neg (by omega)]
  split_ifs <;> simp <;> omega

/-- A limit that is no power of two is stored as the power strictly below it. -/
theorem roundAggLimit_of_not_mem {n : Nat} (h : n ∉ [0, 1, 2, 4, 8, 16, 32, 64]) (h64 : n < 64) :
    roundAggLimit n ∈ [2, 4, 8, 16, 32] ∧ roundAggLimit n < n ∧ n < 2 * roundAggLimit n := by
  obtain ⟨hpower, hle, hlt⟩ := roundAggLimit_bounds (by rintro rfl; simp at h) h64
  generalize roundAggLimit n = agg at *
  simp only [List.mem_cons, List.not_mem_nil, or_false] at *
  omega

/-! ### The thirteen values as stored (R111) -/

theorem clampParams_eq (q : PortParams) : clampParams q =
    { dlQuantum := max 500 (min 20000 q.dlQuantum)
      ulQuantum := max 200 (min 20000 q.ulQuantum)
      airtimeCap := max 100 (min 8000 q.airtimeCap)
      aggLimit := roundAggLimit q.aggLimit
      trim := max (-7) (min 7 q.trim)
      epochLength := max 10 (min 1000 q.epochLength)
      expShare := min 100 q.expShare
      ulRatio := min 15 q.ulRatio
      windowLength := max 200 (min 4000 q.windowLength)
      ulMax := max 1 (min 8 q.ulMax)
      grantTimeout := max 2 (min 200 q.grantTimeout)
      holdLimit := max 10 (min 2000 q.holdLimit)
      serviceTimeout := max 5 (min 200 q.serviceTimeout) } := by
  simp [clampParams, clamp, clampInt]

/-! ### CONFIGURE_PORT (R111, R112) -/

theorem PortState.live_iff (x : PortState) :
    x.live = true ↔ x = .running ∨ x = .suspended ∨ x = .draining := by cases x <;> decide

theorem ownConfigure_of_none {body : List Byte} (s : State) (h : parseConfigure body = none) :
    ownConfigure body s = s.refuse .badRecord := by simp [ownConfigure, h]

theorem ownConfigure_of_badPort {body : List Byte} {r : ConfigureReq} (s : State)
    (hr : parseConfigure body = some r) (hp : portOf r.port = none) :
    ownConfigure body s = s.refuse .badRecord := by simp [ownConfigure, hr, hp]

section
variable {body : List Byte} {s : State} {r : ConfigureReq} {p : PortNo}
  (hr : parseConfigure body = some r) (hp : portOf r.port = some p)
include hr hp

theorem ownConfigure_of_live (hlive : (s.port p).state.live = true) :
    ownConfigure body s = s.refuse .portState := by simp [ownConfigure, hr, hp, hlive]

/-- What an accepted CONFIGURE_PORT writes: the clamped values and the budget they give (R84). -/
theorem ownConfigure_of_ok (hlive : ¬ (s.port p).state.live = true) :
    ownConfigure body s = ⟨s.setPort p { s.port p with
        params := clampParams r.params, budget := fullBudget (clampParams r.params) },
      .ok, .params (clampParams r.params)⟩ := by
  simp [ownConfigure, hr, hp, hlive, State.modPort]

end

/-- A waiting CONFIGURE_PORT is answered as its owner says (R179). -/
theorem State.Waits.exec_configurePort {s t : State} {tag : Byte} {body : List Byte} {c : ReplyCode}
    {f : ReplyFields} (hw : s.Waits 0x01 tag body) (h : ownConfigure body s = ⟨t, c, f⟩) :
    exec .configurePort s = .next (t.replied 0x81 tag c f) :=
  congrArg Host.Outcome.next (hw.handle_eq h)

/-- Settles O19: each check that fails is the one `ownConfigure` answers; with none failing it stores
`clampParams` of the values sent, whose aggregate limit is `roundAggLimit`'s. -/
theorem configurePortStoresThirteenClampedValues : Obligations.ConfigurePortStoresThirteenClampedValues := by
  intro tag body s hw refused
  have refuse {c : ReplyCode} (h : ownConfigure body s = s.refuse c) : refused c := hw.exec_configurePort h
  split_ifs with hlen
  · exact refuse (ownConfigure_of_none s ((parseConfigure_eq_none_iff body).2 hlen))
  obtain ⟨r, hr⟩ := exists_parseConfigure (not_not.1 hlen)
  refine ⟨r, hr, ?_⟩
  split_ifs with hport
  · exact refuse (ownConfigure_of_badPort s hr (portOf_eq_none hport))
  obtain ⟨p, hp⟩ := exists_portOf (Nat.le_of_not_lt hport)
  refine ⟨p, hp, ?_⟩
  split_ifs with hstate
  · exact refuse (ownConfigure_of_live hr hp ((PortState.live_iff _).2 hstate))
  have hanswer := hw.exec_configurePort (ownConfigure_of_ok hr hp (mt (PortState.live_iff _).1 hstate))
  rw [clampParams_eq] at hanswer
  exact ⟨roundAggLimit r.params.aggLimit, roundAggLimit_of_outside, roundAggLimit_of_mem _,
    roundAggLimit_of_not_mem, hanswer⟩

end Sys2Proof.Machine
